-- ==== Sys2Proof/Word.lean ====
section
/-! DEFINITION. The two bit-vector types of the machine: the 16-bit word that every cell, pointer, opcode and
immediate is (00_scope.md R5, parameters `W` and `PTR_W`; R6), and the byte of the rendered output text. -/

namespace Sys2Proof

/-- A 16-bit value: a stack cell, a program cell, an opcode, an immediate, `sp`, `ip` (00_scope.md R5, R6). -/
abbrev Word := BitVec 16

/-- A byte of the text form of the output (45_halt_and_nop.md R142); the core itself has no bytes (R32). -/
abbrev Byte := BitVec 8

end Sys2Proof
end

