-- ==== Sys2Proof/Config.lean ====
section
/-! DEFINITION. The parameters of 00_scope.md R5 that the spec fixes, and the type of the one it leaves open,
`OPMAP`. The values that a test could show wrong stand where a repair can reach them: the default of `OPMAP` in
Decode.lean, `SHIFT_MOD` in Machine/Operands.lean, `LINE_TERM` in Machine/Output.lean. -/

namespace Sys2Proof

namespace Config

/-- `STACK_CELLS` (00_scope.md R5): the stack has cells 0 to 1023. -/
def stackCells : Nat := 1024

/-- `PROG_CELLS` (00_scope.md R5): the program has cells 0 to 1023. -/
def progCells : Nat := 1024

/-- `EXIT_OK` (00_scope.md R5): the exit status on HALT. -/
def exitOk : BitVec 1 := 0

/-- `EXIT_FAULT` (00_scope.md R5): the exit status on any fault. -/
def exitFault : BitVec 1 := 1

/-- The value of `fault_cause` in every status but FAULTED (10_state.md R22). -/
def causeNone : BitVec 2 := 0

/-- `CAUSE_PROGRAM_RANGE` (00_scope.md R5). -/
def causeProgramRange : BitVec 2 := 1

/-- `CAUSE_STACK_RANGE` (00_scope.md R5). -/
def causeStackRange : BitVec 2 := 2

@[simp] theorem stackCells_eq : stackCells = 1024 := rfl
@[simp] theorem progCells_eq : progCells = 1024 := rfl

end Config

/-- The 20 mnemonics that `OPMAP` gives a value (30_encoding.md R53), in the order of its table. -/
inductive Mnemonic where
  | push | pip | psp | add | sub | mul | lsf | rsf | inc | dec
  | iip | dip | isp | dsp | call | ret | jnz | ssp | jmp | halt
  deriving DecidableEq, Repr

/-- The 20 mnemonics as a list. -/
def Mnemonic.all : List Mnemonic :=
  [.push, .pip, .psp, .add, .sub, .mul, .lsf, .rsf, .inc, .dec,
   .iip, .dip, .isp, .dsp, .call, .ret, .jnz, .ssp, .jmp, .halt]

/-- `OPMAP` (00_scope.md R5, 30_encoding.md R53): the opcode value of each mnemonic. A parameter of the decoder,
the encoder and the step; never part of State. -/
abbrev OpMap := Mnemonic → Word

/-- What 30_encoding.md R53 asks of an `OPMAP`: the values are distinct and 0x0000 is none of them. -/
def OpMap.Admissible (m : OpMap) : Prop :=
  (∀ x y, m x = m y → x = y) ∧ ∀ x, m x ≠ 0

end Sys2Proof
end

