-- ==== Sys2Proof/Syntax.lean ====
section
/-! DEFINITION. The instructions: one constructor for each of the 21 rows of spec/opcode_table.json. -/

namespace Sys2Proof

/-- An instruction, with its operands: only PUSH has one (30_encoding.md R50, R52). A no-op keeps the word it was
decoded from, since every value that `OPMAP` leaves free is one (R54). -/
inductive Instr where
  /-- 41_push_family.md R90 -/
  | push (imm : Word)
  /-- 41_push_family.md R91 -/
  | pip
  /-- 41_push_family.md R92 -/
  | psp
  /-- 42_arithmetic.md R101 -/
  | add
  /-- 42_arithmetic.md R102 -/
  | sub
  /-- 42_arithmetic.md R103 -/
  | mul
  /-- 42_arithmetic.md R104 -/
  | lsf
  /-- 42_arithmetic.md R105 -/
  | rsf
  /-- 42_arithmetic.md R106 -/
  | inc
  /-- 42_arithmetic.md R107 -/
  | dec
  /-- 43_pointer_adjust.md R120 -/
  | iip
  /-- 43_pointer_adjust.md R121 -/
  | dip
  /-- 43_pointer_adjust.md R122 -/
  | isp
  /-- 43_pointer_adjust.md R123 -/
  | dsp
  /-- 44_control_transfer.md R130 -/
  | call
  /-- 44_control_transfer.md R131 -/
  | ret
  /-- 44_control_transfer.md R132 -/
  | jnz
  /-- 43_pointer_adjust.md R124 -/
  | ssp
  /-- 44_control_transfer.md R133 -/
  | jmp
  /-- 45_halt_and_nop.md R140 -/
  | halt
  /-- 45_halt_and_nop.md R141; `opcode` is the unassigned word -/
  | nop (opcode : Word)
  deriving DecidableEq, Repr

end Sys2Proof
end

