-- ==== Sys2Proof/WellFormed.lean ====
section
/-! DEFINITION. Which terms of `Instr` stand for an encoding under a given `OPMAP`. -/

namespace Sys2Proof

/-- The mnemonic whose value under `OPMAP` is the word, if any (40_fetch_decode_cycle.md R72). -/
def OpMap.lookup (m : OpMap) (w : Word) : Option Mnemonic :=
  Mnemonic.all.find? fun x => m x == w

/-- The one check: the word of a no-op is a value that `OPMAP` does not assign (30_encoding.md R54). Any immediate
is allowed (41_push_family.md R90). -/
def Instr.wellFormed (m : OpMap) : Instr → Bool
  | .push _ => true
  | .pip => true
  | .psp => true
  | .add => true
  | .sub => true
  | .mul => true
  | .lsf => true
  | .rsf => true
  | .inc => true
  | .dec => true
  | .iip => true
  | .dip => true
  | .isp => true
  | .dsp => true
  | .call => true
  | .ret => true
  | .jnz => true
  | .ssp => true
  | .jmp => true
  | .halt => true
  | .nop w => (m.lookup w).isNone

end Sys2Proof
end

