-- ==== Sys2Proof/Decode.lean ====
section
/-! DEFINITION. The default `OPMAP`, the decoder from program words and the encoder (30_encoding.md; 40_fetch_decode_cycle.md
R72). Both take `OPMAP` as an argument, as R53 asks; `decode` and `encode` are theirs at the default. -/

namespace Sys2Proof

/-- The default `OPMAP` of 30_encoding.md R53, the numbering of spec/opcode_table.json. UNVERIFIED for any binary of
the original repository (92_eei_decisions.md D1; log entry 1). -/
def defaultOpMap : OpMap
  | .push => 0x0001
  | .pip => 0x0002
  | .psp => 0x0003
  | .add => 0x0004
  | .sub => 0x0005
  | .mul => 0x0006
  | .lsf => 0x0007
  | .rsf => 0x0008
  | .inc => 0x0009
  | .dec => 0x000A
  | .iip => 0x000B
  | .dip => 0x000C
  | .isp => 0x000D
  | .dsp => 0x000E
  | .call => 0x000F
  | .ret => 0x0010
  | .jnz => 0x0011
  | .ssp => 0x0012
  | .jmp => 0x0013
  | .halt => 0x0014

/-- Why a list of words is no instruction. No word value is ever refused (30_encoding.md R54): only words can be
missing. -/
inductive DecodeError where
  /-- there is no opcode word -/
  | noOpcode
  /-- the opcode is PUSH's and there is no immediate word (30_encoding.md R55, R57) -/
  | noImmediate
  deriving DecidableEq, Repr

/-- The instruction of a mnemonic, taking its immediate from the words after the opcode (30_encoding.md R50, R52). -/
def decodeOperands : Mnemonic → List Word → Except DecodeError (Instr × List Word)
  | .push, [] => .error .noImmediate
  | .push, imm :: rest => .ok (.push imm, rest)
  | .pip, ws => .ok (.pip, ws)
  | .psp, ws => .ok (.psp, ws)
  | .add, ws => .ok (.add, ws)
  | .sub, ws => .ok (.sub, ws)
  | .mul, ws => .ok (.mul, ws)
  | .lsf, ws => .ok (.lsf, ws)
  | .rsf, ws => .ok (.rsf, ws)
  | .inc, ws => .ok (.inc, ws)
  | .dec, ws => .ok (.dec, ws)
  | .iip, ws => .ok (.iip, ws)
  | .dip, ws => .ok (.dip, ws)
  | .isp, ws => .ok (.isp, ws)
  | .dsp, ws => .ok (.dsp, ws)
  | .call, ws => .ok (.call, ws)
  | .ret, ws => .ok (.ret, ws)
  | .jnz, ws => .ok (.jnz, ws)
  | .ssp, ws => .ok (.ssp, ws)
  | .jmp, ws => .ok (.jmp, ws)
  | .halt, ws => .ok (.halt, ws)

/-- The instruction at the front of a list of words, and the words after it. A word that `OPMAP` does not assign is
a no-op of one word (30_encoding.md R54, R55; 40_fetch_decode_cycle.md R72). -/
def decodeWith (m : OpMap) : List Word → Except DecodeError (Instr × List Word)
  | [] => .error .noOpcode
  | w :: ws =>
    match m.lookup w with
    | some x => decodeOperands x ws
    | none => .ok (.nop w, ws)

/-- The decoder at the default `OPMAP`. -/
def decode (ws : List Word) : Except DecodeError (Instr × List Word) :=
  decodeWith defaultOpMap ws

/-- The words of an instruction (30_encoding.md R50, R52, R53): the opcode word, and PUSH's immediate. -/
def encodeWith (m : OpMap) : Instr → List Word
  | .push imm => [m .push, imm]
  | .pip => [m .pip]
  | .psp => [m .psp]
  | .add => [m .add]
  | .sub => [m .sub]
  | .mul => [m .mul]
  | .lsf => [m .lsf]
  | .rsf => [m .rsf]
  | .inc => [m .inc]
  | .dec => [m .dec]
  | .iip => [m .iip]
  | .dip => [m .dip]
  | .isp => [m .isp]
  | .dsp => [m .dsp]
  | .call => [m .call]
  | .ret => [m .ret]
  | .jnz => [m .jnz]
  | .ssp => [m .ssp]
  | .jmp => [m .jmp]
  | .halt => [m .halt]
  | .nop w => [w]

/-- The encoder at the default `OPMAP`. -/
def encode (i : Instr) : List Word :=
  encodeWith defaultOpMap i

/-- How many words an instruction has: 2 for PUSH, 1 for every other, NOP included (30_encoding.md R55). -/
def Instr.length : Instr → Nat
  | .push _ => 2
  | .pip => 1
  | .psp => 1
  | .add => 1
  | .sub => 1
  | .mul => 1
  | .lsf => 1
  | .rsf => 1
  | .inc => 1
  | .dec => 1
  | .iip => 1
  | .dip => 1
  | .isp => 1
  | .dsp => 1
  | .call => 1
  | .ret => 1
  | .jnz => 1
  | .ssp => 1
  | .jmp => 1
  | .halt => 1
  | .nop _ => 1

/-- The two words of an instruction given as one number in the opcode table's numbering: bits 15..0 are the first
word, bits 31..16 the second; bits from `nbits` up are 0. -/
def tableWords (nbits w : Nat) : List Word :=
  let bits := w % 2 ^ nbits
  [BitVec.ofNat 16 bits, BitVec.ofNat 16 (bits / 65536)]

/-- The instruction the decoder reads from a table word. -/
def decodeTableWord (nbits w : Nat) : Option Instr :=
  match decode (tableWords nbits w) with
  | .ok (i, _) => some i
  | .error _ => none

end Sys2Proof
end

