-- ==== Sys2Proof/Machine/State.lean ====
section
/-! DEFINITION. The state of the machine, the two faults, the refusal, and the state after reset
(10_state.md R10 to R29). -/

namespace Sys2Proof
namespace Machine

/-- One memory of 16-bit cells (10_state.md R16, R17): the cells that do not hold 0, as (index, cell) pairs with the
indices strictly rising; a cell that is not listed reads 0, the reset contents the spec gives (R29). The canonical
form is `Memory.wf` (Machine/Ops.lean). The smallest addressable unit is a cell (20_memory.md R32), so the pairs hold
16-bit words, not bytes (DESIGN CHOICE, log entry 10). -/
abbrev Memory := List (Nat × Word)

/-- The four values of `status` (10_state.md R20). -/
inductive Status where
  /-- reset and not started: loads are accepted, nothing executes -/
  | idle
  /-- instructions execute one after another -/
  | running
  /-- a HALT has executed; nothing executes -/
  | halted
  /-- a fault was detected; nothing executes -/
  | faulted
  deriving DecidableEq, Repr

/-- The architectural state: the eight items of 10_state.md R10 and the output strobe of R23 and R29. -/
structure State where
  /-- the 1024 stack cells (R16) -/
  stack : Memory
  /-- the 1024 program cells (R17) -/
  program : Memory
  /-- the stack pointer (R14, R15) -/
  sp : Word
  /-- the instruction pointer (R12, R13) -/
  ip : Word
  /-- the run's status (R20) -/
  status : Status
  /-- the exit status, meaningful in HALTED and FAULTED (R21) -/
  exitCode : BitVec 1
  /-- which fault ended the run: 0 none, 1 program-range, 2 stack-range (R22) -/
  faultCause : BitVec 2
  /-- the value HALT emitted (R23) -/
  outValue : Word
  /-- the one-step strobe `out_valid` (R23, R29, 45_halt_and_nop.md R140) -/
  outValid : Bool
  deriving DecidableEq, Repr

/-- The two faults of 60_exceptions.md R150. The machine TAKES them (`takeFault`, R155): a step that raises one
answers the next state, with `status` FAULTED, and never the interface's `.fault`. -/
inductive Fault where
  /-- Raised by every fetch at `ip >= 1024`: the opcode's and PUSH's immediate's (R151). Safe: it ends the run, as the
  spec says. -/
  | programRange
  /-- Raised by every stack read or write at an index `>= 1024` (R152). Safe: it ends the run; for writes the spec's own
  choice (92_eei_decisions.md D2, log entry 2). -/
  | stackRange
  deriving DecidableEq, Repr

/-- Why an instruction could have no meaning. Every instruction of this machine has one. -/
inductive Refusal where
  /-- The instruction of that mnemonic is not modelled. Raised by no arm of `exec`. Safe: a refused step proves nothing. -/
  | notModelled (mnemonic : String)
  deriving DecidableEq, Repr

/-- The machine right after reset: every item at the value of 10_state.md R29 (70_reset_and_hazards.md R170). -/
def State.reset : State where
  stack := []
  program := []
  sp := 0
  ip := 0
  status := .idle
  exitCode := 0
  faultCause := 0
  outValue := 0
  outValid := false

end Machine
end Sys2Proof
end

