-- ==== Sys2Proof/Machine/Ops.lean ====
section
/-! DEFINITION. The named operations: reading and writing one cell, the checked stack primitives `MemRead` and `MemWrite`
(20_memory.md R35, R36), `Fetch` (40_fetch_decode_cycle.md R70), taking a fault (60_exceptions.md R155), halting
(45_halt_and_nop.md R140), and running one instruction whole or not at all (R73). -/

namespace Sys2Proof
namespace Machine

/-- What a step answers. -/
abbrev Result := Host.Outcome State Fault Refusal

/-! ### Cells -/

/-- The content of a cell that no entry lists: 0 (10_state.md R29; 43_pointer_adjust.md R125). -/
def unlistedCell : Word := 0

/-- The content of one cell. -/
def Memory.read : Memory → Nat → Word
  | [], _ => unlistedCell
  | (b, v) :: rest, a => if a = b then v else Memory.read rest a

/-- An entry for the cell, or none where its value is what an unlisted cell reads as. -/
def Memory.entry (a : Nat) (v : Word) (rest : Memory) : Memory :=
  if v = unlistedCell then rest else (a, v) :: rest

/-- Writing one cell, in the canonical form. -/
def Memory.write : Memory → Nat → Word → Memory
  | [], a, v => Memory.entry a v []
  | (b, w) :: rest, a, v =>
    if a < b then Memory.entry a v ((b, w) :: rest)
    else if a = b then Memory.entry a v rest
    else (b, w) :: Memory.write rest a v

/-- The canonical form from index `lo` on: indices strictly rising and below `cells`, no entry that an unlisted cell
would read as. -/
def Memory.wfFrom (cells : Nat) : Nat → Memory → Bool
  | _, [] => true
  | lo, (a, v) :: rest =>
    decide (lo ≤ a) && decide (a < cells) && decide (v ≠ unlistedCell) && Memory.wfFrom cells (a + 1) rest

/-- The canonical form of a memory of `cells` cells: two memories with equal cells are equal data, and no cell
lies outside the memory (10_state.md R18: the memories never change length). -/
def Memory.wf (cells : Nat) (m : Memory) : Bool :=
  Memory.wfFrom cells 0 m

/-! ### Registers -/

/-- `sp <- v` (00_scope.md R7). -/
def State.setSp (s : State) (v : Word) : State :=
  { s with sp := v }

/-- `ip <- v` (00_scope.md R7). -/
def State.setIp (s : State) (v : Word) : State :=
  { s with ip := v }

/-- `stack[i] <- v`, for an index already known to be below 1024 (00_scope.md R7). -/
def State.setCell (s : State) (i : Nat) (v : Word) : State :=
  { s with stack := Memory.write s.stack i v }

/-! ### The 16-bit arithmetic of 00_scope.md R6: computed over the integers, then kept modulo 65536 -/

/-- `a +16 b` -/
def add16 (a b : Word) : Word :=
  BitVec.ofNat 16 (a.toNat + b.toNat)

/-- `a -16 b` -/
def sub16 (a b : Word) : Word :=
  BitVec.ofInt 16 ((a.toNat : Int) - (b.toNat : Int))

/-- `a *16 b` -/
def mul16 (a b : Word) : Word :=
  BitVec.ofNat 16 (a.toNat * b.toNat)

/-! ### Checked accesses -/

/-- `MemRead(addr, 1)` (20_memory.md R35): the check is on the whole 16-bit index. -/
def memRead (s : State) (addr : Word) : Except Fault Word :=
  if addr.toNat ≥ Config.stackCells then .error .stackRange
  else .ok (Memory.read s.stack addr.toNat)

/-- `MemWrite(addr, 1, v)` (20_memory.md R36). -/
def memWrite (s : State) (addr v : Word) : Except Fault State :=
  if addr.toNat ≥ Config.stackCells then .error .stackRange
  else .ok (s.setCell addr.toNat v)

/-- `ip <- ip +16 1`, the advance of a fetch (40_fetch_decode_cycle.md R70, R76). -/
def State.advanceIp (s : State) : State :=
  s.setIp (add16 s.ip 1)

/-- `Fetch()` (40_fetch_decode_cycle.md R70): the test is on `ip` before the advance, on all 16 bits. -/
def fetch (s : State) : Except Fault (Word × State) :=
  if s.ip.toNat ≥ Config.progCells then .error .programRange
  else .ok (Memory.read s.program s.ip.toNat, s.advanceIp)

/-! ### The ends of a run -/

/-- The value of `fault_cause` for a fault (10_state.md R22, 60_exceptions.md R150). -/
def Fault.cause : Fault → BitVec 2
  | .programRange => Config.causeProgramRange
  | .stackRange => Config.causeStackRange

/-- `raise` (60_exceptions.md R155), applied to the state the step began with, so that every change the step made to
`ip`, `sp` and `stack` is undone (40_fetch_decode_cycle.md R73, 92_eei_decisions.md D5, log entry 4). There is no return
from a fault (R156): FAULTED is left by Reset only. -/
def takeFault (f : Fault) (s : State) : State :=
  { s with faultCause := f.cause, exitCode := Config.exitFault, status := .faulted }

/-- `halt(v)` (45_halt_and_nop.md R140): the output event, exit status 0, HALTED. -/
def haltWith (v : Word) (s : State) : State :=
  { s with outValue := v, outValid := true, exitCode := Config.exitOk, status := .halted }

/-! ### One instruction, whole or not at all -/

/-- Runs an instruction whose opcode word stands at `s.ip`: its body sees the state after the opcode fetch, with `ip` one
higher (40_fetch_decode_cycle.md R76); its writes are committed together, or a fault is taken from `s` and none of them
stays (R73). -/
def atomically (s : State) (body : State → Except Fault State) : Result :=
  match body s.advanceIp with
  | .ok t => .next t
  | .error f => .next (takeFault f s)

end Machine
end Sys2Proof
end

