-- ==== Sys2Proof/Machine/Operands.lean ====
section
/-! DEFINITION. The operand patterns the instructions share (every operand is implicit but PUSH's immediate, 30_encoding.md
R52), and the two shifts. -/

namespace Sys2Proof
namespace Machine

/-! ### The shifts -/

/-- `SHIFT_MOD` (00_scope.md R5). UNVERIFIED (92_eei_decisions.md D6, log entry 7). -/
def shiftMod : Nat := 32

/-- The logical shift left of 42_arithmetic.md R104, with the modulus of the amount as a parameter: over the unbounded
integers, then the low 16 bits (R109). -/
def shiftLeftMod (modulus : Nat) (shift value : Word) : Word :=
  BitVec.ofNat 16 (value.toNat * 2 ^ (shift.toNat % modulus))

/-- The logical shift right of 42_arithmetic.md R105, with the modulus of the amount as a parameter. -/
def shiftRightMod (modulus : Nat) (shift value : Word) : Word :=
  BitVec.ofNat 16 (value.toNat / 2 ^ (shift.toNat % modulus))

/-! ### Stack operands (00_scope.md R8) -/

/-- The index of the top cell. -/
def topIndex (s : State) : Word :=
  s.sp

/-- The index of the second cell, `sp -16 1`. -/
def secondIndex (s : State) : Word :=
  sub16 s.sp 1

/-- The index a push writes, `sp +16 1`. -/
def pushIndex (s : State) : Word :=
  add16 s.sp 1

/-- The checked read of the top cell. -/
def readTop (s : State) : Except Fault Word :=
  memRead s (topIndex s)

/-! ### Patterns -/

/-- The push of 41_push_family.md R90 to R93: `sp` is raised first, then `value` of the state with the new `sp` is
written at it. -/
def pushValue (value : State → Word) (s : State) : Except Fault State :=
  let s1 := s.setSp (pushIndex s)
  memWrite s1 (topIndex s1) (value s1)

/-- The fetch of PUSH's immediate (41_push_family.md R90): its index must be a program cell, and `ip` moves past it. The
value is the one the decoder read there. -/
def fetchImmediate (imm : Word) (s : State) : Except Fault (Word × State) :=
  if s.ip.toNat ≥ Config.progCells then .error .programRange
  else .ok (imm, s.advanceIp)

/-- The two-operand pop pattern of 42_arithmetic.md R100. -/
def popPair (f : Word → Word → Word) (s : State) : Except Fault State := do
  let a ← readTop s
  let s1 := s.setSp (secondIndex s)
  let b ← readTop s1
  memWrite s1 (topIndex s1) (f a b)

/-- The in-place pattern of 42_arithmetic.md R106 and R107. -/
def updateTop (f : Word → Word) (s : State) : Except Fault State := do
  let t ← readTop s
  memWrite s (topIndex s) (f t)

end Machine
end Sys2Proof
end

