-- ==== Sys2Proof/Machine/Arithmetic.lean ====
section
/-! DEFINITION. ADD, SUB, MUL, LSF, RSF, INC, DEC (42_arithmetic.md). In a two-operand instruction `a` is the top, the
operand pushed last, and `b` the second. -/

namespace Sys2Proof
namespace Machine

/-- ADD (R101). -/
def execAdd (s : State) : Result :=
  atomically s (popPair fun a b => add16 a b)

/-- SUB (R102): top minus second. -/
def execSub (s : State) : Result :=
  atomically s (popPair fun a b => sub16 a b)

/-- MUL (R103): the low 16 bits of the product. -/
def execMul (s : State) : Result :=
  atomically s (popPair fun a b => mul16 a b)

/-- LSF (R104): the second shifted left by the top. -/
def execLsf (s : State) : Result :=
  atomically s (popPair fun shift value => shiftLeftMod shiftMod shift value)

/-- RSF (R105): the second shifted right by the top. -/
def execRsf (s : State) : Result :=
  atomically s (popPair fun shift value => shiftRightMod shiftMod shift value)

/-- INC (R106). -/
def execInc (s : State) : Result :=
  atomically s (updateTop fun t => add16 t 1)

/-- DEC (R107). -/
def execDec (s : State) : Result :=
  atomically s (updateTop fun t => sub16 t 1)

end Machine
end Sys2Proof
end

