-- ==== Sys2Proof/Machine/Flags.lean ====
section
/-! DEFINITION. The machine has no flags and no condition codes (10_state.md R19). Its one condition is JNZ's test of a
stack cell against zero (44_control_transfer.md R132). -/

namespace Sys2Proof
namespace Machine

/-- `check != 0`: the tested cell as a 16-bit unsigned number. -/
def isNonzero (check : Word) : Bool :=
  decide (check.toNat ≠ 0)

end Machine
end Sys2Proof
end

