-- ==== Sys2Proof/Machine/Control.lean ====
section
/-! DEFINITION. CALL, RET, JNZ, JMP (44_control_transfer.md). A target is not checked when it is loaded (R134). -/

namespace Sys2Proof
namespace Machine

/-- CALL (R130): the return address is the post-fetch `ip`; `sp` does not move. -/
def execCall (s : State) : Result :=
  atomically s fun s1 => do
    let returnAddress := s1.ip
    let jmpAddress ← readTop s1
    let swapValue ← memRead s1 (secondIndex s1)
    let s2 ← memWrite s1 (secondIndex s1) returnAddress
    let s3 ← memWrite s2 (topIndex s2) swapValue
    .ok (s3.setIp jmpAddress)

/-- RET (R131). -/
def execRet (s : State) : Result :=
  atomically s fun s1 => do
    let curValue ← readTop s1
    let s2 := s1.setSp (secondIndex s1)
    let returnAddress ← readTop s2
    let s3 := s2.setIp returnAddress
    memWrite s3 (topIndex s3) curValue

/-- JNZ (R132): `sp` falls by one whether or not it jumps; the tested cell stays (90_conflicts.md C3). -/
def execJnz (s : State) : Result :=
  atomically s fun s1 => do
    let jmpAddress ← readTop s1
    let s2 := s1.setSp (secondIndex s1)
    let check ← readTop s2
    .ok (if isNonzero check then s2.setIp jmpAddress else s2)

/-- JMP (R133): the address stays on the stack. -/
def execJmp (s : State) : Result :=
  atomically s fun s1 => do
    let target ← readTop s1
    .ok (s1.setIp target)

end Machine
end Sys2Proof
end

