-- ==== Sys2Proof/Machine/Pointer.lean ====
section
/-! DEFINITION. IIP, DIP, ISP, DSP, SSP (43_pointer_adjust.md). -/

namespace Sys2Proof
namespace Machine

/-- IIP (R120): the next word is skipped, not read. -/
def execIip (s : State) : Result :=
  atomically s fun s1 => .ok (s1.setIp (add16 s1.ip 1))

/-- DIP (R121). -/
def execDip (s : State) : Result :=
  atomically s fun s1 => .ok (s1.setIp (sub16 s1.ip 1))

/-- ISP (R122): no access, so no fault. -/
def execIsp (s : State) : Result :=
  atomically s fun s1 => .ok (s1.setSp (add16 s1.sp 1))

/-- DSP (R123): no access, so no fault. -/
def execDsp (s : State) : Result :=
  atomically s fun s1 => .ok (s1.setSp (sub16 s1.sp 1))

/-- SSP (R124): only the read is checked, the new `sp` is not. -/
def execSsp (s : State) : Result :=
  atomically s fun s1 => do
    let v ← readTop s1
    .ok (s1.setSp v)

end Machine
end Sys2Proof
end

