-- ==== Sys2Proof/Machine/Push.lean ====
section
/-! DEFINITION. PUSH, PIP, PSP (41_push_family.md). Each takes the state whose `ip` is the index of its opcode word. -/

namespace Sys2Proof
namespace Machine

/-- PUSH (R90): the immediate fetch comes before the stack write. -/
def execPush (imm : Word) (s : State) : Result :=
  atomically s fun s1 => do
    let (v, s2) ← fetchImmediate imm s1
    pushValue (fun _ => v) s2

/-- PIP (R91): the value is the post-fetch `ip`. -/
def execPip (s : State) : Result :=
  atomically s (pushValue State.ip)

/-- PSP (R92): the value is the new `sp`. -/
def execPsp (s : State) : Result :=
  atomically s (pushValue State.sp)

end Machine
end Sys2Proof
end

