-- ==== Sys2Proof/Machine/System.lean ====
section
/-! DEFINITION. HALT and the no-op (45_halt_and_nop.md). -/

namespace Sys2Proof
namespace Machine

/-- HALT (R140): the top is read, not popped. -/
def execHalt (s : State) : Result :=
  atomically s fun s1 => do
    let curValue ← readTop s1
    .ok (haltWith curValue s1)

/-- NOP (R141): only the opcode fetch; the word it was decoded from does not matter. -/
def execNop (_opcode : Word) (s : State) : Result :=
  atomically s fun s1 => .ok s1

end Machine
end Sys2Proof
end

