-- ==== Sys2Proof/Machine/Dispatch.lean ====
section
/-! DEFINITION. The dispatch: one arm per instruction (40_fetch_decode_cycle.md R71, R72). The state is the one whose `ip`
is the index of the instruction's opcode word (log entry 12). -/

namespace Sys2Proof
namespace Machine

def exec (i : Instr) (s : State) : Host.Outcome State Fault Refusal :=
  match i with
  | .push imm => Sys2Proof.Machine.execPush imm s
  | .pip => Sys2Proof.Machine.execPip s
  | .psp => Sys2Proof.Machine.execPsp s
  | .add => Sys2Proof.Machine.execAdd s
  | .sub => Sys2Proof.Machine.execSub s
  | .mul => Sys2Proof.Machine.execMul s
  | .lsf => Sys2Proof.Machine.execLsf s
  | .rsf => Sys2Proof.Machine.execRsf s
  | .inc => Sys2Proof.Machine.execInc s
  | .dec => Sys2Proof.Machine.execDec s
  | .iip => Sys2Proof.Machine.execIip s
  | .dip => Sys2Proof.Machine.execDip s
  | .isp => Sys2Proof.Machine.execIsp s
  | .dsp => Sys2Proof.Machine.execDsp s
  | .call => Sys2Proof.Machine.execCall s
  | .ret => Sys2Proof.Machine.execRet s
  | .jnz => Sys2Proof.Machine.execJnz s
  | .ssp => Sys2Proof.Machine.execSsp s
  | .jmp => Sys2Proof.Machine.execJmp s
  | .halt => Sys2Proof.Machine.execHalt s
  | .nop opcode => Sys2Proof.Machine.execNop opcode s

end Machine
end Sys2Proof
end

