-- ==== Sys2Proof/Machine/Cycle.lean ====
section
/-! DEFINITION. Fetching an instruction, and one step (40_fetch_decode_cycle.md R70 to R75), with `OPMAP` as a parameter. -/

namespace Sys2Proof
namespace Machine

/-- The program words from `ip` on that an instruction can take, each read by `Fetch()`: two, or one at the last cell, or
none out of range. Reading the second word ahead of need shows nowhere (20_memory.md R34: no read has a side effect). -/
def wordsAt (s : State) : List Word :=
  match fetch s with
  | .error _ => []
  | .ok (w, s1) =>
    match fetch s1 with
    | .error _ => [w]
    | .ok (v, _) => [w, v]

/-- The instruction at `ip`. A word that is missing lies outside the program space, so its fetch raises
ProgramRangeFault: the opcode's (40_fetch_decode_cycle.md R70) or PUSH's immediate's (30_encoding.md R57). -/
def fetchInstr (m : OpMap) (s : State) : Except Fault Instr :=
  match decodeWith m (wordsAt s) with
  | .ok (i, _) => .ok i
  | .error .noOpcode => .error .programRange
  | .error .noImmediate => .error .programRange

/-- Fetches, decodes and executes one instruction (40_fetch_decode_cycle.md R71). -/
def runInstr (m : OpMap) (s : State) : Result :=
  match fetchInstr m s with
  | .ok i => exec i s
  | .error f => .next (takeFault f s)

/-- The output strobe `out_valid` back low (10_state.md R23: a one-step strobe; DESIGN CHOICE, log entry 5). -/
def State.lowerStrobe (s : State) : State :=
  { s with outValid := false }

/-- The start of a step: `status <- RUNNING` if it was IDLE (10_state.md R24), the strobe low. -/
def State.beginStep (s : State) : State :=
  { s with status := .running, outValid := false }

/-- One step with `OPMAP` as a parameter. In IDLE and RUNNING it executes exactly one instruction (10_state.md R24); in HALTED
and FAULTED no instruction executes and the state holds (40_fetch_decode_cycle.md R75), the strobe aside. -/
def stepWith (m : OpMap) (s : State) : Result :=
  match s.status with
  | .idle => runInstr m s.beginStep
  | .running => runInstr m s.beginStep
  | .halted => .next s.lowerStrobe
  | .faulted => .next s.lowerStrobe

/-- Places words at consecutive program cells. -/
def placeWords (p : Memory) (at_ : Nat) : List Word → Memory
  | [] => p
  | w :: ws => placeWords (Memory.write p at_ w) (at_ + 1) ws

/-- The state whose next step fetches the given two words: `ip` stays where two cells are left from it on, and is 0 where not;
a run that has ended is running again; nothing else changes. -/
def State.withWordsAtIp (s : State) (ws : List Word) : State :=
  let at_ : Word := if s.ip.toNat + ws.length ≤ Config.progCells then s.ip else 0
  { s with
    ip := at_
    program := placeWords s.program at_.toNat ws
    status :=
      match s.status with
      | .idle => .idle
      | .running => .running
      | .halted => .running
      | .faulted => .running }

end Machine
end Sys2Proof
end

