-- ==== Sys2Proof/Machine/Step.lean ====
section
/-! DEFINITION. The step function of the machine, at the default `OPMAP`, and the placing of an instruction where the
step fetches it. -/

namespace Sys2Proof
namespace Machine

/-- One step: in RUNNING the machine's own step (40_fetch_decode_cycle.md R71), in IDLE the host's Step event (10_state.md R24). -/
def step (s : State) : Host.Outcome State Fault Refusal :=
  stepWith defaultOpMap s

/-- The state with a table word placed where the next step fetches it: its two words at `ip` and `ip + 1` of the program
(log entry 11). -/
def State.withFetchWord (s : State) (nbits w : Nat) : State :=
  s.withWordsAtIp (tableWords nbits w)

end Machine
end Sys2Proof
end

