-- ==== Sys2Proof/Machine/Output.lean ====
section
/-! DEFINITION. The text form of the output event (45_halt_and_nop.md R142): the host's side of the boundary. -/

namespace Sys2Proof
namespace Machine

/-- `LINE_TERM` (00_scope.md R5): the one byte 0x0A. UNVERIFIED (92_eei_decisions.md D4, log entry 14). -/
def lineTerm : List Byte := [0x0A]

/-- The decimal digits of a number, most significant first, put before `acc`; `fuel` bounds their count. -/
def decimalDigitsAux : Nat → Nat → List Nat → List Nat
  | 0, _, acc => acc
  | fuel + 1, n, acc =>
    if n < 10 then n :: acc else decimalDigitsAux fuel (n / 10) (n % 10 :: acc)

/-- The decimal digits of a 16-bit value: 1 to 5 of them. -/
def decimalDigits (v : Word) : List Nat :=
  decimalDigitsAux 5 v.toNat []

/-- The character of a digit: ASCII 0x30 to 0x39. -/
def digitByte (d : Nat) : Byte :=
  BitVec.ofNat 8 (0x30 + d)

/-- The text of `Output(v)` with the line terminator as a parameter. -/
def outputTextWith (terminator : List Byte) (v : Word) : List Byte :=
  (decimalDigits v).map digitByte ++ terminator

/-- The text of `Output(v)`. -/
def outputText (v : Word) : List Byte :=
  outputTextWith lineTerm v

end Machine
end Sys2Proof
end

