-- ==== Sys2Proof/Machine/HostInterface.lean ====
section
/-! DEFINITION. What the host can do to the machine and what it observes (10_state.md R24 to R27; 20_memory.md R45;
70_reset_and_hazards.md R170, R171). An event lands between two steps. -/

namespace Sys2Proof
namespace Machine

/-- The four events of 10_state.md R24. -/
inductive HostEvent where
  | reset
  | load (words : List Word)
  | start
  | step
  deriving DecidableEq, Repr

/-- The copy of Load (20_memory.md R45), from program index `i` on: it stops at the end of the words or of the program
buffer, whichever comes first, and discards the rest. -/
def loadFrom (p : Memory) (i : Nat) : List Word → Memory
  | [] => p
  | w :: ws => if i < Config.progCells then loadFrom (Memory.write p i w) (i + 1) ws else p

/-- Load(words) (20_memory.md R45): in IDLE only (92_eei_decisions.md D9, log entry 8). -/
def load (words : List Word) (s : State) : State :=
  match s.status with
  | .idle => { s with program := loadFrom s.program 0 words }
  | .running => s
  | .halted => s
  | .faulted => s

/-- Start (10_state.md R24): in IDLE only. -/
def start (s : State) : State :=
  match s.status with
  | .idle => { s with status := .running }
  | .running => s
  | .halted => s
  | .faulted => s

/-- One event of the host, with `OPMAP` as a parameter. Reset is accepted in every status (70_reset_and_hazards.md R170). -/
def hostEventWith (m : OpMap) : HostEvent → State → Result
  | .reset, _ => .next State.reset
  | .load words, s => .next (load words s)
  | .start, s => .next (start s)
  | .step, s => stepWith m s

/-- One event of the host, at the default `OPMAP`. -/
def hostEvent (e : HostEvent) (s : State) : Result :=
  hostEventWith defaultOpMap e s

/-- `n` steps, one after another: the loop of Run under fuel, which is the executor's and not the machine's
(40_fetch_decode_cycle.md R74, 92_eei_decisions.md D19). A run that has ended holds its state (R75). -/
def runStepsWith (m : OpMap) : Nat → State → Result
  | 0, s => .next s
  | n + 1, s =>
    match stepWith m s with
    | .next t => runStepsWith m n t
    | .fault r => .fault r
    | .refused r => .refused r

/-- Run (40_fetch_decode_cycle.md R74) for `n` steps, at the default `OPMAP`. -/
def run (n : Nat) (s : State) : Result :=
  runStepsWith defaultOpMap n (start s)

/-- The exit status the host observes (10_state.md R26): none while the run has not ended. -/
def exitStatus (s : State) : Option (BitVec 1) :=
  match s.status with
  | .idle => none
  | .running => none
  | .halted => some s.exitCode
  | .faulted => some s.exitCode

/-- The output event of the step that led to the state (10_state.md R23, R27). -/
def outputEvent (s : State) : Option Word :=
  if s.outValid then some s.outValue else none

/-- What the host has when a run has ended (40_fetch_decode_cycle.md R77): the exit status, and the output of a run that
halted. -/
def runResult (s : State) : Option (BitVec 1 × Option Word) :=
  match s.status with
  | .idle => none
  | .running => none
  | .halted => some (s.exitCode, some s.outValue)
  | .faulted => some (s.exitCode, none)

end Machine
end Sys2Proof
end

