-- ==== Sys2Proof/Safety.lean ====
section
/-! DEFINITION. What claims are stated in terms of: the invariant of the state, the states a host can bring the machine to,
and the table of stack accesses of 20_memory.md R38. -/

namespace Sys2Proof
namespace Machine

/-! ### The invariant -/

/-- The output registers agree with `status`, as 10_state.md R21 to R23 say: each is 0 in the statuses where it means
nothing, and the strobe is high in HALTED only. -/
def State.outputsAgree (s : State) : Bool :=
  match s.status with
  | .idle => s.exitCode == 0 && s.faultCause == 0 && s.outValue == 0 && !s.outValid
  | .running => s.exitCode == 0 && s.faultCause == 0 && s.outValue == 0 && !s.outValid
  | .halted => s.exitCode == 0 && s.faultCause == 0
  | .faulted => s.exitCode == 1 && (s.faultCause == 1 || s.faultCause == 2) && s.outValue == 0 && !s.outValid

/-- In IDLE nothing has executed since reset: the stack and both pointers are as reset left them (10_state.md R20, R29;
20_memory.md R45). -/
def State.idleIsFresh (s : State) : Bool :=
  match s.status with
  | .idle => s.stack == [] && s.sp == 0 && s.ip == 0
  | .running => true
  | .halted => true
  | .faulted => true

/-- The invariant: both memories keep their form (so no cell lies outside index 0 to 1023), and the registers agree with
`status`. -/
structure State.Inv (s : State) : Prop where
  stackWf : Memory.wf Config.stackCells s.stack = true
  programWf : Memory.wf Config.progCells s.program = true
  outputs : s.outputsAgree = true
  fresh : s.idleIsFresh = true

/-- The states the host can bring the machine to, by any events in any order (10_state.md R24). -/
inductive Reachable (m : OpMap) : State → Prop where
  | reset : Reachable m State.reset
  | event (s t : State) (e : HostEvent) : Reachable m s → hostEventWith m e s = .next t → Reachable m t

/-! ### Stack accesses -/

/-- A checked stack read or write, at an index (20_memory.md R38). -/
inductive StackAccess where
  | read (index : Word)
  | write (index : Word)
  deriving DecidableEq, Repr

/-- The index of an access. -/
def StackAccess.index : StackAccess → Word
  | .read i => i
  | .write i => i

/-- The table of 20_memory.md R38: the stack accesses of each instruction in order, for the `sp` at its start. -/
def stackAccesses (sp : Word) : Instr → List StackAccess
  | .push _ => [.write (sp + 1)]
  | .pip => [.write (sp + 1)]
  | .psp => [.write (sp + 1)]
  | .add => [.read sp, .read (sp - 1), .write (sp - 1)]
  | .sub => [.read sp, .read (sp - 1), .write (sp - 1)]
  | .mul => [.read sp, .read (sp - 1), .write (sp - 1)]
  | .lsf => [.read sp, .read (sp - 1), .write (sp - 1)]
  | .rsf => [.read sp, .read (sp - 1), .write (sp - 1)]
  | .inc => [.read sp, .write sp]
  | .dec => [.read sp, .write sp]
  | .iip => []
  | .dip => []
  | .isp => []
  | .dsp => []
  | .call => [.read sp, .read (sp - 1), .write (sp - 1), .write sp]
  | .ret => [.read sp, .read (sp - 1), .write (sp - 1)]
  | .jnz => [.read sp, .read (sp - 1)]
  | .ssp => [.read sp]
  | .jmp => [.read sp]
  | .halt => [.read sp]
  | .nop _ => []

/-- Every stack access of the instruction is in range (60_exceptions.md R166). -/
def accessesInRange (sp : Word) (i : Instr) : Bool :=
  (stackAccesses sp i).all fun a => decide (a.index.toNat < 1024)

/-! ### Frames -/

/-- What every instruction but HALT leaves alone: the program, the outputs, and the registers of the run's end, unless it
takes a fault, which writes `status`, `exit_code` and `fault_cause` and nothing else (10_state.md R20 to R23;
60_exceptions.md R155). -/
def RunRegistersKept (s t : State) : Prop :=
  t.program = s.program ∧ t.outValue = s.outValue ∧ t.outValid = s.outValid ∧
    ((t.status = s.status ∧ t.exitCode = s.exitCode ∧ t.faultCause = s.faultCause) ∨ ∃ f, t = takeFault f s)

/-- The state after a two-operand instruction (42_arithmetic.md R100): the result in the former second cell, `sp` one lower. -/
def popPairResult (s : State) (v : Word) : State :=
  { s with ip := s.ip + 1, sp := s.sp - 1, stack := Memory.write s.stack (s.sp.toNat - 1) v }

/-- The machine is in a status in which a step executes an instruction (10_state.md R24). -/
def CanStep (s : State) : Prop :=
  s.status = .idle ∨ s.status = .running

/-- The run has ended (40_fetch_decode_cycle.md R77). -/
def HasEnded (s : State) : Prop :=
  s.status = .halted ∨ s.status = .faulted

end Machine
end Sys2Proof
end

