-- ==== Sys2Proof/Certificates/Slice0/Obligations.lean ====
section
/-! DEFINITION. The statements about the model, one per obligation of OBLIGATIONS.json. In each, `s` is the state whose `ip` is
the index of the instruction's opcode word; the post-fetch `ip` of the spec is `s.ip + 1` (40_fetch_decode_cycle.md R76). The signs
`+`, `-`, `*` on words are modulo 65536 (00_scope.md R6), `<<<` and `>>>` the logical shifts by a number of places. -/

open Sys2Proof Sys2Proof.Machine

/-! ### Encoding -/

/-- 30_encoding.md R53: the default numbers are distinct and avoid 0x0000. The numbers are the spec's decision D1 (log entry 1). -/
def Obligations.DefaultOpMapIsAdmissible : Prop :=
  defaultOpMap.Admissible

/-- The rows of 30_encoding.md R53's table and of the no-op, by the word each has there (decision D1, log entry 1). -/
def Obligations.TableWordsDecode : Prop :=
  decode [0x0001, 0xFFFF] = .ok (.push 0xFFFF, []) ∧ decode [0x0002] = .ok (.pip, []) ∧
  decode [0x0003] = .ok (.psp, []) ∧ decode [0x0004] = .ok (.add, []) ∧ decode [0x0005] = .ok (.sub, []) ∧
  decode [0x0006] = .ok (.mul, []) ∧ decode [0x0007] = .ok (.lsf, []) ∧ decode [0x0008] = .ok (.rsf, []) ∧
  decode [0x0009] = .ok (.inc, []) ∧ decode [0x000A] = .ok (.dec, []) ∧ decode [0x000B] = .ok (.iip, []) ∧
  decode [0x000C] = .ok (.dip, []) ∧ decode [0x000D] = .ok (.isp, []) ∧ decode [0x000E] = .ok (.dsp, []) ∧
  decode [0x000F] = .ok (.call, []) ∧ decode [0x0010] = .ok (.ret, []) ∧ decode [0x0011] = .ok (.jnz, []) ∧
  decode [0x0012] = .ok (.ssp, []) ∧ decode [0x0013] = .ok (.jmp, []) ∧ decode [0x0014] = .ok (.halt, []) ∧
  decode [0x0000] = .ok (.nop 0x0000, []) ∧ decode [0x0015] = .ok (.nop 0x0015, []) ∧
  decode [0xFFFF] = .ok (.nop 0xFFFF, [])

/-- Decoding the encoding of a well-formed instruction gives it back, and the words after it, under every admissible `OPMAP`
(30_encoding.md R50 to R55; 40_fetch_decode_cycle.md R72). -/
def Obligations.DecodeOfEncodeIsTheInstruction : Prop :=
  ∀ m : OpMap, m.Admissible → ∀ i : Instr, i.wellFormed m = true → ∀ rest : List Word,
    decodeWith m (encodeWith m i ++ rest) = .ok (i, rest)

/-- The words that decode to an instruction are its encoding, and it is well formed, under every `OPMAP` (30_encoding.md R50 to
R55). -/
def Obligations.EncodeOfDecodeIsTheWords : Prop :=
  ∀ (m : OpMap) (ws rest : List Word) (i : Instr), decodeWith m ws = .ok (i, rest) →
    ws = encodeWith m i ++ rest ∧ i.wellFormed m = true

/-- The decoder is total on word values: a list of words fails to decode only for want of a word, its opcode or PUSH's immediate
(30_encoding.md R54, R55, R57). -/
def Obligations.DecodeFailsOnlyForWantOfAWord : Prop :=
  ∀ m : OpMap, m.Admissible → ∀ (ws : List Word) (e : DecodeError),
    decodeWith m ws = .error e ↔ (ws = [] ∧ e = .noOpcode) ∨ (ws = [m .push] ∧ e = .noImmediate)

/-- 30_encoding.md R54: a value that `OPMAP` does not assign decodes to the no-op; every word value decodes; all unassigned values
behave identically, and none is an error: only `ip` moves, past the word. -/
def Obligations.UnassignedWordIsANoOp : Prop :=
  ∀ m : OpMap,
    (∀ (w : Word) (rest : List Word), (∀ x, m x ≠ w) → decodeWith m (w :: rest) = .ok (.nop w, rest)) ∧
    (∀ w v : Word, ∃ i rest, decodeWith m [w, v] = .ok (i, rest)) ∧
    ∀ (w v : Word) (s : State), exec (.nop w) s = exec (.nop v) s ∧ exec (.nop w) s = .next { s with ip := s.ip + 1 }

/-! ### Accesses -/

/-- 20_memory.md R35: `MemRead` checks the whole 16-bit index against 1024 and has no other effect than to give the cell. -/
def Obligations.StackReadIsBoundsChecked : Prop :=
  ∀ (s : State) (addr : Word),
    memRead s addr = if 1024 ≤ addr.toNat then .error .stackRange else .ok (Memory.read s.stack addr.toNat)

/-- 20_memory.md R36: a write at 1024 or more raises the stack-range fault (decision D2, log entry 2); any other changes that one
cell and nothing else. -/
def Obligations.StackWriteIsBoundsChecked : Prop :=
  ∀ (s : State) (addr v : Word), Memory.wf 1024 s.stack = true →
    (1024 ≤ addr.toNat → memWrite s addr v = .error .stackRange) ∧
    (addr.toNat < 1024 → ∃ t, memWrite s addr v = .ok t ∧ t = { s with stack := t.stack } ∧
      Memory.read t.stack addr.toNat = v ∧ (∀ a, a ≠ addr.toNat → Memory.read t.stack a = Memory.read s.stack a) ∧
      Memory.wf 1024 t.stack = true)

/-- 40_fetch_decode_cycle.md R70: `Fetch()` tests `ip` before the advance, on all 16 bits, gives the cell at `ip` and leaves `ip`
one higher. A fetch that fails has no state: the model raises, and the fault is taken from the state before (decision D5, log entry 4). -/
def Obligations.FetchReadsAtIpAndAdvances : Prop :=
  ∀ s : State,
    (1024 ≤ s.ip.toNat → fetch s = .error .programRange) ∧
    (s.ip.toNat < 1024 → fetch s = .ok (Memory.read s.program s.ip.toNat, { s with ip := s.ip + 1 }))

/-- 20_memory.md R30: the two spaces are never aliased, and decode reads nothing but the word (40_fetch_decode_cycle.md R72): the
instruction fetched depends on `program` and `ip` alone. -/
def Obligations.FetchSeesOnlyProgramAndIp : Prop :=
  ∀ (m : OpMap) (s t : State), s.program = t.program → s.ip = t.ip → fetchInstr m s = fetchInstr m t

/-- Where the fetch of an instruction faults, always with the program-range cause: `ip` at 1024 or more, or a PUSH at 1023, whose
immediate would be at 1024 (30_encoding.md R57; 60_exceptions.md R151). -/
def Obligations.InstructionFetchFaultsOutOfRangeOnly : Prop :=
  ∀ m : OpMap, m.Admissible → ∀ (s : State) (f : Fault),
    fetchInstr m s = .error f ↔
      f = .programRange ∧
        (1024 ≤ s.ip.toNat ∨ (s.ip.toNat = 1023 ∧ Memory.read s.program 1023 = m .push))

/-! ### Instructions: encoding, result, faults -/

/-- 41_push_family.md R90, PUSH: the word, the result, and the faults in their order (the immediate's fetch before the write). -/
def Obligations.PushPushesItsImmediate : Prop :=
  ∀ v : Word, decode [0x0001, v] = .ok (.push v, []) ∧ ∀ s : State,
    ((s.ip + 1).toNat < 1024 → (s.sp + 1).toNat < 1024 →
      exec (.push v) s = .next { s with
        ip := s.ip + 2, sp := s.sp + 1, stack := Memory.write s.stack (s.sp + 1).toNat v }) ∧
    (1024 ≤ (s.ip + 1).toNat → exec (.push v) s = .next (takeFault .programRange s)) ∧
    ((s.ip + 1).toNat < 1024 → 1024 ≤ (s.sp + 1).toNat → exec (.push v) s = .next (takeFault .stackRange s))

/-- 41_push_family.md R91 and R92: PIP pushes the post-fetch `ip`, PSP the new `sp`. -/
def Obligations.PipAndPspPushThePointers : Prop :=
  decode [0x0002] = .ok (.pip, []) ∧ decode [0x0003] = .ok (.psp, []) ∧ ∀ s : State,
    ((s.sp + 1).toNat < 1024 →
      exec .pip s = .next { s with
        ip := s.ip + 1, sp := s.sp + 1, stack := Memory.write s.stack (s.sp + 1).toNat (s.ip + 1) } ∧
      exec .psp s = .next { s with
        ip := s.ip + 1, sp := s.sp + 1, stack := Memory.write s.stack (s.sp + 1).toNat (s.sp + 1) }) ∧
    (1024 ≤ (s.sp + 1).toNat →
      exec .pip s = .next (takeFault .stackRange s) ∧ exec .psp s = .next (takeFault .stackRange s))

/-- 42_arithmetic.md R100 to R103: ADD, SUB (top minus second), MUL need `sp` in 1 to 1023 and fault otherwise. -/
def Obligations.AddSubMulCombineTopAndSecond : Prop :=
  decode [0x0004] = .ok (.add, []) ∧ decode [0x0005] = .ok (.sub, []) ∧ decode [0x0006] = .ok (.mul, []) ∧
  ∀ (s : State) (a b : Word), a = Memory.read s.stack s.sp.toNat → b = Memory.read s.stack (s.sp.toNat - 1) →
    (1 ≤ s.sp.toNat → s.sp.toNat ≤ 1023 →
      exec .add s = .next (popPairResult s (a + b)) ∧
      exec .sub s = .next (popPairResult s (a - b)) ∧
      exec .mul s = .next (popPairResult s (a * b))) ∧
    (s.sp.toNat = 0 ∨ 1024 ≤ s.sp.toNat →
      exec .add s = .next (takeFault .stackRange s) ∧
      exec .sub s = .next (takeFault .stackRange s) ∧
      exec .mul s = .next (takeFault .stackRange s))

/-- 42_arithmetic.md R104, R105, R109: LSF and RSF shift the second by the top modulo 32, logically. That the amounts 16 to 31 give 0
is the spec's decision D6 (log entry 7). -/
def Obligations.ShiftsMoveTheSecondByTheTop : Prop :=
  decode [0x0007] = .ok (.lsf, []) ∧ decode [0x0008] = .ok (.rsf, []) ∧
  ∀ (s : State) (shift value : Word), shift = Memory.read s.stack s.sp.toNat →
    value = Memory.read s.stack (s.sp.toNat - 1) →
    (1 ≤ s.sp.toNat → s.sp.toNat ≤ 1023 →
      exec .lsf s = .next (popPairResult s (value <<< (shift.toNat % 32))) ∧
      exec .rsf s = .next (popPairResult s (value >>> (shift.toNat % 32)))) ∧
    (s.sp.toNat = 0 ∨ 1024 ≤ s.sp.toNat →
      exec .lsf s = .next (takeFault .stackRange s) ∧ exec .rsf s = .next (takeFault .stackRange s))

/-- 42_arithmetic.md R106 and R107: INC and DEC change the top cell in place. -/
def Obligations.IncAndDecChangeTheTop : Prop :=
  decode [0x0009] = .ok (.inc, []) ∧ decode [0x000A] = .ok (.dec, []) ∧ ∀ s : State,
    (s.sp.toNat ≤ 1023 →
      exec .inc s = .next { s with
        ip := s.ip + 1, stack := Memory.write s.stack s.sp.toNat (Memory.read s.stack s.sp.toNat + 1) } ∧
      exec .dec s = .next { s with
        ip := s.ip + 1, stack := Memory.write s.stack s.sp.toNat (Memory.read s.stack s.sp.toNat - 1) }) ∧
    (1024 ≤ s.sp.toNat →
      exec .inc s = .next (takeFault .stackRange s) ∧ exec .dec s = .next (takeFault .stackRange s))

/-- 43_pointer_adjust.md R120 and R121: IIP skips one word, DIP goes back to its own index; neither touches anything but `ip`, and
neither faults. "DIP sets `ip` back to its own index" is marked in R121 as derived from 40_fetch_decode_cycle.md R76. -/
def Obligations.IipAndDipMoveIp : Prop :=
  decode [0x000B] = .ok (.iip, []) ∧ decode [0x000C] = .ok (.dip, []) ∧ ∀ s : State,
    exec .iip s = .next { s with ip := s.ip + 2 } ∧ exec .dip s = .next s

/-- 43_pointer_adjust.md R122 and R123: ISP and DSP move `sp` by one from any value, write no cell and never fault. -/
def Obligations.IspAndDspMoveSp : Prop :=
  decode [0x000D] = .ok (.isp, []) ∧ decode [0x000E] = .ok (.dsp, []) ∧ ∀ s : State,
    exec .isp s = .next { s with ip := s.ip + 1, sp := s.sp + 1 } ∧
    exec .dsp s = .next { s with ip := s.ip + 1, sp := s.sp - 1 }

/-- 43_pointer_adjust.md R124: SSP loads `sp` from the top cell; only the read is checked. -/
def Obligations.SspLoadsSpFromTheTop : Prop :=
  decode [0x0012] = .ok (.ssp, []) ∧ ∀ s : State,
    (s.sp.toNat ≤ 1023 → exec .ssp s = .next { s with ip := s.ip + 1, sp := Memory.read s.stack s.sp.toNat }) ∧
    (1024 ≤ s.sp.toNat → exec .ssp s = .next (takeFault .stackRange s))

/-- 44_control_transfer.md R130: CALL jumps to the top cell, puts the argument on top and the return address under it. -/
def Obligations.CallSwapsInTheReturnAddress : Prop :=
  decode [0x000F] = .ok (.call, []) ∧ ∀ (s : State) (target arg : Word),
    target = Memory.read s.stack s.sp.toNat → arg = Memory.read s.stack (s.sp.toNat - 1) →
    (1 ≤ s.sp.toNat → s.sp.toNat ≤ 1023 →
      exec .call s = .next { s with
        ip := target
        stack := Memory.write (Memory.write s.stack (s.sp.toNat - 1) (s.ip + 1)) s.sp.toNat arg }) ∧
    (s.sp.toNat = 0 ∨ 1024 ≤ s.sp.toNat → exec .call s = .next (takeFault .stackRange s))

/-- 44_control_transfer.md R131: RET jumps to the second cell and moves the top down over it. -/
def Obligations.RetReturnsToTheSecondCell : Prop :=
  decode [0x0010] = .ok (.ret, []) ∧ ∀ (s : State) (result address : Word),
    result = Memory.read s.stack s.sp.toNat → address = Memory.read s.stack (s.sp.toNat - 1) →
    (1 ≤ s.sp.toNat → s.sp.toNat ≤ 1023 →
      exec .ret s = .next { s with
        ip := address, sp := s.sp - 1, stack := Memory.write s.stack (s.sp.toNat - 1) result }) ∧
    (s.sp.toNat = 0 ∨ 1024 ≤ s.sp.toNat → exec .ret s = .next (takeFault .stackRange s))

/-- 44_control_transfer.md R132 (and 90_conflicts.md C3): JNZ lowers `sp` by one whether or not it jumps, and writes no cell. -/
def Obligations.JnzJumpsIfTheSecondIsNonzero : Prop :=
  decode [0x0011] = .ok (.jnz, []) ∧ ∀ (s : State) (target check : Word),
    target = Memory.read s.stack s.sp.toNat → check = Memory.read s.stack (s.sp.toNat - 1) →
    (1 ≤ s.sp.toNat → s.sp.toNat ≤ 1023 → check ≠ 0 →
      exec .jnz s = .next { s with ip := target, sp := s.sp - 1 }) ∧
    (1 ≤ s.sp.toNat → s.sp.toNat ≤ 1023 → check = 0 →
      exec .jnz s = .next { s with ip := s.ip + 1, sp := s.sp - 1 }) ∧
    (s.sp.toNat = 0 ∨ 1024 ≤ s.sp.toNat → exec .jnz s = .next (takeFault .stackRange s))

/-- 44_control_transfer.md R133: JMP loads `ip` from the top cell and leaves it on the stack. -/
def Obligations.JmpLoadsIpFromTheTop : Prop :=
  decode [0x0013] = .ok (.jmp, []) ∧ ∀ s : State,
    (s.sp.toNat ≤ 1023 → exec .jmp s = .next { s with ip := Memory.read s.stack s.sp.toNat }) ∧
    (1024 ≤ s.sp.toNat → exec .jmp s = .next (takeFault .stackRange s))

/-- 45_halt_and_nop.md R140: HALT outputs the top cell with exit status 0 and ends the run; `ip` stays past it; and it is the only
instruction that raises the strobe or enters HALTED. The registers are the spec's decisions D3 and D4. -/
def Obligations.HaltOutputsTheTop : Prop :=
  decode [0x0014] = .ok (.halt, []) ∧
  (∀ s : State,
    (s.sp.toNat ≤ 1023 → exec .halt s = .next { s with
      ip := s.ip + 1, status := .halted, exitCode := 0, outValue := Memory.read s.stack s.sp.toNat, outValid := true }) ∧
    (1024 ≤ s.sp.toNat → exec .halt s = .next (takeFault .stackRange s))) ∧
  ∀ (i : Instr) (s t : State), exec i s = .next t → i ≠ .halt →
    t.outValid = s.outValid ∧ t.outValue = s.outValue ∧ (t.status = .halted → s.status = .halted)

/-- 45_halt_and_nop.md R141: 0x0000 and 0x0015 to 0xFFFF are NOP under the default `OPMAP`; NOP takes one word and changes nothing but
`ip`, at any `sp`. -/
def Obligations.NopOnlyMovesPastItsWord : Prop :=
  ∀ w : Word,
    (w = 0 ∨ 0x0015 ≤ w.toNat → ∀ rest : List Word, decode (w :: rest) = .ok (.nop w, rest)) ∧
    ∀ s : State, exec (.nop w) s = .next { s with ip := s.ip + 1 }

/-! ### Frames -/

/-- PUSH, PIP, PSP write one cell, the one above the old top (20_memory.md R38, 41_push_family.md R93), and of the registers `sp` and
`ip`. -/
def Obligations.PushFamilyFrame : Prop :=
  ∀ (i : Instr) (s t : State), (∃ v, i = .push v) ∨ i = .pip ∨ i = .psp → exec i s = .next t →
    RunRegistersKept s t ∧ ∀ a, a ≠ (s.sp + 1).toNat → Memory.read t.stack a = Memory.read s.stack a

/-- ADD, SUB, MUL, LSF, RSF and RET write one cell, the former second (20_memory.md R38), and of the registers `sp` and `ip`. -/
def Obligations.PopPairFrame : Prop :=
  ∀ (i : Instr) (s t : State), i = .add ∨ i = .sub ∨ i = .mul ∨ i = .lsf ∨ i = .rsf ∨ i = .ret → exec i s = .next t →
    RunRegistersKept s t ∧ ∀ a, a ≠ (s.sp - 1).toNat → Memory.read t.stack a = Memory.read s.stack a

/-- INC and DEC write the top cell, CALL the top and the second (20_memory.md R38); of the registers they write `ip` only. -/
def Obligations.InPlaceFrame : Prop :=
  ∀ (i : Instr) (s t : State), exec i s = .next t →
    (i = .inc ∨ i = .dec →
      RunRegistersKept s t ∧ t.sp = s.sp ∧ ∀ a, a ≠ s.sp.toNat → Memory.read t.stack a = Memory.read s.stack a) ∧
    (i = .call →
      RunRegistersKept s t ∧ t.sp = s.sp ∧
        ∀ a, a ≠ s.sp.toNat → a ≠ (s.sp - 1).toNat → Memory.read t.stack a = Memory.read s.stack a)

/-- IIP, DIP, JMP, NOP write nothing but `ip`; ISP, DSP, SSP, JNZ nothing but `sp` and `ip`: every stack cell reads as before
(20_memory.md R38). -/
def Obligations.NoStoreFrame : Prop :=
  ∀ (i : Instr) (s t : State), exec i s = .next t →
    (i = .iip ∨ i = .dip ∨ i = .jmp ∨ (∃ w, i = .nop w) →
      RunRegistersKept s t ∧ t.sp = s.sp ∧ ∀ a, Memory.read t.stack a = Memory.read s.stack a) ∧
    (i = .isp ∨ i = .dsp ∨ i = .ssp ∨ i = .jnz →
      RunRegistersKept s t ∧ ∀ a, Memory.read t.stack a = Memory.read s.stack a)

/-- HALT writes the output registers, `status`, `exit_code` and `ip`; the stack, `sp` and the program keep their values
(45_halt_and_nop.md R140). -/
def Obligations.HaltFrame : Prop :=
  ∀ s t : State, exec .halt s = .next t →
    t.sp = s.sp ∧ t.program = s.program ∧ (∀ a, Memory.read t.stack a = Memory.read s.stack a) ∧
      (t.faultCause = s.faultCause ∨ t = takeFault .stackRange s)

/-! ### Faults and the step -/

/-- 60_exceptions.md R155: fault entry writes `fault_cause`, `exit_code`, `status` and nothing else. The registers are the spec's
decision D3. -/
def Obligations.FaultEntryWritesThreeRegisters : Prop :=
  ∀ s : State,
    takeFault .programRange s = { s with faultCause := 1, exitCode := 1, status := .faulted } ∧
    takeFault .stackRange s = { s with faultCause := 2, exitCode := 1, status := .faulted }

/-- 60_exceptions.md R166 and 20_memory.md R38: an instruction faults exactly when one of its stack accesses is at 1024 or more, or,
for PUSH, its immediate is; no access ever reaches outside a buffer. -/
def Obligations.InstructionFaultsIffAnAccessIsOutOfRange : Prop :=
  ∀ (i : Instr) (s t : State), s.status ≠ .faulted → exec i s = .next t →
    (t.status = .faulted ↔
      accessesInRange s.sp i = false ∨ ((∃ v, i = .push v) ∧ 1024 ≤ (s.ip + 1).toNat))

/-- 40_fetch_decode_cycle.md R73 (decision D5, log entry 4): a step that faults changes `status`, `exit_code`, `fault_cause` and nothing
else of the machine of 10_state.md R10. -/
def Obligations.FaultingStepLeavesNoTrace : Prop :=
  ∀ (m : OpMap) (s t : State), CanStep s → stepWith m s = .next t → t.status = .faulted →
    t.ip = s.ip ∧ t.sp = s.sp ∧ t.stack = s.stack ∧ t.program = s.program ∧ t.outValue = s.outValue ∧
      t.exitCode = 1 ∧ (t.faultCause = 1 ∨ t.faultCause = 2) ∧ t.outValid = false

/-- 60_exceptions.md R151, R154: a step with `ip` at 1024 or more is a program-range fault, whatever `sp` is. -/
def Obligations.OutOfRangeIpFaultsFirst : Prop :=
  ∀ (m : OpMap) (s : State), CanStep s → 1024 ≤ s.ip.toNat →
    ∃ t, stepWith m s = .next t ∧ t.status = .faulted ∧ t.faultCause = 1 ∧ t.exitCode = 1

/-- Every step from every state answers a next state: no instruction is refused and the machine has no other stop than its own
statuses (40_fetch_decode_cycle.md R71, R74). -/
def Obligations.EveryStepAnswersANextState : Prop :=
  ∀ (m : OpMap) (s : State), ∃ t, stepWith m s = .next t

/-- When the words at `ip` decode to an instruction, a step from IDLE or RUNNING is that instruction, run from the same state with
`status` RUNNING and the output strobe low (40_fetch_decode_cycle.md R71, 10_state.md R24; the strobe: log entry 5). -/
def Obligations.StepRunsTheDecodedInstruction : Prop :=
  ∀ (s : State) (i : Instr) (rest : List Word), CanStep s → decode (wordsAt s) = .ok (i, rest) →
    step s = exec i { s with status := .running, outValid := false }

/-- The same from the program cells: where they hold the encoding of a well-formed instruction from `ip` on, the step runs it, under
every admissible `OPMAP` (30_encoding.md R50 to R56; the strobe: log entry 5). -/
def Obligations.StepRunsTheEncodedInstruction : Prop :=
  ∀ m : OpMap, m.Admissible → ∀ (s : State) (i : Instr), CanStep s → i.wellFormed m = true →
    s.ip.toNat + i.length ≤ 1024 →
    (∀ k, k < i.length → (encodeWith m i)[k]? = some (Memory.read s.program (s.ip.toNat + k))) →
    stepWith m s = exec i { s with status := .running, outValid := false }

/-- 10_state.md R17, 20_memory.md R43: no step writes the program space. -/
def Obligations.StepKeepsTheProgram : Prop :=
  ∀ (m : OpMap) (s t : State), stepWith m s = .next t → t.program = s.program

/-- 10_state.md R27, 45_halt_and_nop.md R140: the strobe is high after a step exactly when that step was a HALT that read the top cell,
and then `out_value` is that cell and the run is HALTED. -/
def Obligations.OutputOnlyByHalt : Prop :=
  ∀ (m : OpMap) (s t : State), CanStep s → stepWith m s = .next t →
    (t.outValid = true ↔ fetchInstr m s = .ok .halt ∧ s.sp.toNat ≤ 1023) ∧
    (t.status = .halted ↔ t.outValid = true) ∧
    (t.outValid = true → t.outValue = Memory.read s.stack s.sp.toNat ∧ t.exitCode = 0)

/-! ### Status and host events -/

/-- 10_state.md R20: the transitions of `status` under the host's events, and no other. -/
def Obligations.StatusTransitions : Prop :=
  ∀ (m : OpMap) (e : HostEvent) (s t : State), hostEventWith m e s = .next t →
    (e = .reset → t.status = .idle) ∧
    (e ≠ .reset → HasEnded s → t.status = s.status) ∧
    (e = .start → s.status = .idle → t.status = .running) ∧
    ((∃ ws, e = .load ws) → t.status = s.status) ∧
    (e = .step → CanStep s → t.status = .running ∨ t.status = .halted ∨ t.status = .faulted) ∧
    (e = .start → s.status = .running → t.status = .running)

/-- 40_fetch_decode_cycle.md R75: after HALTED or FAULTED any number of steps changes no item of 10_state.md R10. That the strobe falls at
the first of them is the model's choice (log entry 5). -/
def Obligations.EndedRunHoldsForEver : Prop :=
  ∀ (m : OpMap) (s : State), HasEnded s → ∀ n : Nat,
    runStepsWith m (n + 1) s = .next { s with outValid := false }

/-- 10_state.md R24: Start sets RUNNING in IDLE and does nothing elsewhere; a Step from IDLE is the first step of a started run. -/
def Obligations.StartThenStepIsStepFromIdle : Prop :=
  ∀ (m : OpMap) (s : State),
    (s.status = .idle →
      hostEventWith m .start s = .next { s with status := .running } ∧
      hostEventWith m .step s = hostEventWith m .step { s with status := .running }) ∧
    (s.status ≠ .idle → hostEventWith m .start s = .next s)

/-- 20_memory.md R45: Load copies the words from index 0 up, as many as fit, and changes nothing else; outside IDLE it has no effect
(decision D9, log entry 8). -/
def Obligations.LoadCopiesTheWords : Prop :=
  ∀ (ws : List Word) (s : State),
    (s.status = .idle → Memory.wf 1024 s.program = true → ∃ t, hostEvent (.load ws) s = .next t ∧
      t = { s with program := t.program } ∧
      (∀ i, i < min ws.length 1024 → ws[i]? = some (Memory.read t.program i)) ∧
      (∀ i, min ws.length 1024 ≤ i → Memory.read t.program i = Memory.read s.program i)) ∧
    (s.status ≠ .idle → hostEvent (.load ws) s = .next s)

/-- 10_state.md R29: Reset is accepted in every state and leaves every cell and register at 0 and `status` IDLE. -/
def Obligations.ResetClearsEverything : Prop :=
  ∀ s : State, ∃ t, hostEvent .reset s = .next t ∧ t = State.reset ∧
    (∀ a, Memory.read t.stack a = 0) ∧ (∀ a, Memory.read t.program a = 0) ∧ t.sp = 0 ∧ t.ip = 0 ∧
    t.status = .idle ∧ t.exitCode = 0 ∧ t.faultCause = 0 ∧ t.outValue = 0 ∧ t.outValid = false

/-! ### Invariants -/

/-- The state after reset meets the invariant. -/
def Obligations.InvHoldsAtReset : Prop :=
  State.reset.Inv

/-- Every step keeps the invariant: both memories keep 1024 cells in canonical form (10_state.md R18), and the output registers agree with
`status` (R21 to R23). -/
def Obligations.StepKeepsInv : Prop :=
  ∀ (m : OpMap) (s t : State), s.Inv → stepWith m s = .next t → t.Inv

/-- Every state that any host can bring the machine to meets the invariant, and there the host's observations are those of 10_state.md R26
and 40_fetch_decode_cycle.md R77: exit status 0 and one output in HALTED, 1 and none in FAULTED, none of either before. -/
def Obligations.ReachableStatesAreConsistent : Prop :=
  ∀ (m : OpMap) (s : State), Reachable m s → s.Inv ∧
    (exitStatus s = some 0 ↔ s.status = .halted) ∧ (exitStatus s = some 1 ↔ s.status = .faulted) ∧
    (exitStatus s = none ↔ CanStep s) ∧
    (s.status = .halted → runResult s = some (0, some s.outValue)) ∧
    (s.status = .faulted → runResult s = some (1, none)) ∧
    (CanStep s → runResult s = none) ∧ (outputEvent s ≠ none → s.status = .halted)

/-! ### Rules about pairs and runs of instructions -/

/-- 44_control_transfer.md R135: a CALL, then a RET at the same `sp` with the return address still under the top, leaves `ip` after the
CALL, the callee's top on top, and `sp` one less than at the CALL. -/
def Obligations.CallThenRetReturns : Prop :=
  ∀ s : State, 1 ≤ s.sp.toNat → s.sp.toNat ≤ 1023 → Memory.wf 1024 s.stack = true →
    ∃ t, exec .call s = .next t ∧ t.ip = Memory.read s.stack s.sp.toNat ∧ t.sp = s.sp ∧
      Memory.read t.stack t.sp.toNat = Memory.read s.stack (s.sp.toNat - 1) ∧
      ∀ u : State, u.sp = s.sp → Memory.wf 1024 u.stack = true →
        Memory.read u.stack (u.sp.toNat - 1) = Memory.read t.stack (t.sp.toNat - 1) →
        ∃ v, exec .ret u = .next v ∧ v.ip = s.ip + 1 ∧ v.sp = s.sp - 1 ∧
          Memory.read v.stack v.sp.toNat = Memory.read u.stack u.sp.toNat

/-- 43_pointer_adjust.md R121, a sentence marked there as derived from 40_fetch_decode_cycle.md R76: a DIP, once reached, repeats for
ever: no number of steps changes anything. -/
def Obligations.DipRepeatsForEver : Prop :=
  ∀ (m : OpMap) (s : State), s.status = .running → s.outValid = false → fetchInstr m s = .ok .dip →
    ∀ n : Nat, runStepsWith m n s = .next s

/-- 41_push_family.md R91, R92; 43_pointer_adjust.md R124; 44_control_transfer.md R133: after PSP an SSP leaves `sp` where PSP put it, and after PIP
the JMP that follows jumps to its own index. -/
def Obligations.PushedPointersLeadBack : Prop :=
  ∀ s : State, Memory.wf 1024 s.stack = true → (s.sp + 1).toNat < 1024 →
    (∃ t, exec .psp s = .next t ∧ exec .ssp t = .next { t with ip := t.ip + 1 }) ∧
    (∃ t, exec .pip s = .next t ∧ exec .jmp t = .next t)

/-- 45_halt_and_nop.md R142: the text of an output is the decimal digits of the value, most significant first, with no leading zero, in
ASCII, then the line terminator (the characters and the terminator's byte: G1, decision D4, log entry 14). -/
def Obligations.OutputTextIsDecimal : Prop :=
  (∀ (terminator : List Byte) (v : Word), ∃ ds : List Nat,
    outputTextWith terminator v = ds.map (fun d => BitVec.ofNat 8 (0x30 + d)) ++ terminator ∧
    (∀ d ∈ ds, d < 10) ∧ ds.foldl (fun n d => 10 * n + d) 0 = v.toNat ∧ 1 ≤ ds.length ∧ ds.length ≤ 5 ∧
    (ds.head? = some 0 → ds = [0])) ∧
  ∀ v : Word, outputText v = outputTextWith [0x0A] v
end

