-- ==== Sys2Proof/Laws/Decode.lean ====
section
/-! SUPPORT. The look-up of a word in `OPMAP`. -/

namespace Sys2Proof

theorem mem_mnemonics (x : Mnemonic) : x ∈ Mnemonic.all := by
  cases x <;> decide

/-- A look-up that finds a mnemonic finds one with that value. -/
theorem lookup_some {m : OpMap} {w : Word} {x : Mnemonic} (h : m.lookup w = some x) : m x = w := by
  simpa using List.find?_some h

/-- A look-up that finds none: no mnemonic has the value. -/
theorem lookup_none {m : OpMap} {w : Word} : m.lookup w = none ↔ ∀ x, m x ≠ w := by
  simp only [OpMap.lookup, List.find?_eq_none, beq_iff_eq]
  exact ⟨fun h x => h x (mem_mnemonics x), fun h x _ => h x⟩

/-- Under an `OPMAP` with distinct values, the look-up of a mnemonic's value finds that mnemonic. -/
theorem lookup_value {m : OpMap} (hm : m.Admissible) (x : Mnemonic) : m.lookup (m x) = some x := by
  cases h : m.lookup (m x) with
  | none => exact absurd rfl (lookup_none.mp h x)
  | some y => rw [hm.1 y x (lookup_some h)]

end Sys2Proof
end

