-- ==== Sys2Proof/Laws/Memory.lean ====
section
/-! SUPPORT. One cell of memory: reading after writing, the canonical form, and that it makes equal memories equal data. -/

namespace Sys2Proof
namespace Machine

@[simp] theorem read_nil (a : Nat) : Memory.read [] a = 0 := rfl

/-- A memory whose entries lie at `lo` and above reads 0 below `lo`. -/
theorem read_below (cells : Nat) :
    ∀ (m : Memory) (lo a : Nat), Memory.wfFrom cells lo m = true → a < lo → Memory.read m a = 0
  | [], _, _, _, _ => rfl
  | (b, v) :: rest, lo, a, h, hlt => by
    simp only [Memory.wfFrom, Bool.and_eq_true, decide_eq_true_eq] at h
    obtain ⟨⟨⟨hb, -⟩, -⟩, hr⟩ := h
    simp only [Memory.read, show ¬ a = b by omega, if_false]
    exact read_below cells rest (b + 1) a hr (by omega)

/-- A memory in canonical form reads 0 outside its cells. -/
theorem read_outside (cells : Nat) :
    ∀ (m : Memory) (lo a : Nat), Memory.wfFrom cells lo m = true → cells ≤ a → Memory.read m a = 0
  | [], _, _, _, _ => rfl
  | (b, v) :: rest, lo, a, h, hge => by
    simp only [Memory.wfFrom, Bool.and_eq_true, decide_eq_true_eq] at h
    obtain ⟨⟨⟨-, hb⟩, -⟩, hr⟩ := h
    simp only [Memory.read, show ¬ a = b by omega, if_false]
    exact read_outside cells rest (b + 1) a hr hge

/-- The canonical form from an index on holds from any lower index on. -/
theorem wfFrom_mono {cells lo lo' : Nat} {m : Memory} (hlo : lo' ≤ lo)
    (h : Memory.wfFrom cells lo m = true) : Memory.wfFrom cells lo' m = true := by
  cases m with
  | nil => rfl
  | cons e rest =>
    simp only [Memory.wfFrom, Bool.and_eq_true, decide_eq_true_eq] at h ⊢
    exact ⟨⟨⟨by omega, h.1.1.2⟩, h.1.2⟩, h.2⟩

theorem wfFrom_entry {cells lo a : Nat} {v : Word} {rest : Memory} (hlo : lo ≤ a) (ha : a < cells)
    (h : Memory.wfFrom cells (a + 1) rest = true) : Memory.wfFrom cells lo (Memory.entry a v rest) = true := by
  unfold Memory.entry
  split
  · exact wfFrom_mono (by omega) h
  · simp [Memory.wfFrom, *]

/-- Writing a cell of the memory keeps the canonical form. -/
theorem wfFrom_write (cells : Nat) :
    ∀ (m : Memory) (lo a : Nat) (v : Word), lo ≤ a → a < cells → Memory.wfFrom cells lo m = true →
      Memory.wfFrom cells lo (Memory.write m a v) = true
  | [], lo, a, v, hlo, ha, _ => wfFrom_entry hlo ha rfl
  | (b, w) :: rest, lo, a, v, hlo, ha, h => by
    have h' := h
    simp only [Memory.wfFrom, Bool.and_eq_true, decide_eq_true_eq] at h'
    obtain ⟨⟨⟨hb, hbc⟩, hw⟩, hr⟩ := h'
    unfold Memory.write
    split
    · refine wfFrom_entry hlo ha ?_
      simp only [Memory.wfFrom, Bool.and_eq_true, decide_eq_true_eq]
      exact ⟨⟨⟨by omega, hbc⟩, hw⟩, hr⟩
    · split
      · subst a; exact wfFrom_entry hlo ha hr
      · simp only [Memory.wfFrom, Bool.and_eq_true, decide_eq_true_eq]
        exact ⟨⟨⟨hb, hbc⟩, hw⟩, wfFrom_write cells rest (b + 1) a v (by omega) ha hr⟩

/-- Every write to a cell that exists keeps the canonical form. -/
theorem wf_write {cells a : Nat} {m : Memory} (v : Word) (ha : a < cells) (h : Memory.wf cells m = true) :
    Memory.wf cells (Memory.write m a v) = true :=
  wfFrom_write cells m 0 a v (Nat.zero_le a) ha h

theorem wf_reset (cells : Nat) : Memory.wf cells State.reset.stack = true ∧ Memory.wf cells State.reset.program = true :=
  ⟨rfl, rfl⟩

/-- Load keeps the canonical form. -/
theorem wf_loadFrom : ∀ (ws : List Word) (p : Memory) (i : Nat), Memory.wf Config.progCells p = true →
    Memory.wf Config.progCells (loadFrom p i ws) = true
  | [], _, _, h => h
  | w :: ws, p, i, h => by
    unfold loadFrom
    split
    · exact wf_loadFrom ws _ _ (wf_write w ‹_› h)
    · exact h

/-- The read of the cell just written, in any memory whose entries rise. -/
theorem read_write_same (cells : Nat) : ∀ (m : Memory) (lo a : Nat) (v : Word),
    Memory.wfFrom cells lo m = true → Memory.read (Memory.write m a v) a = v
  | [], _, a, v, _ => by
    unfold Memory.write Memory.entry
    split
    · exact Eq.symm ‹_›
    · simp [Memory.read]
  | (b, w) :: rest, lo, a, v, h => by
    have h' := h
    simp only [Memory.wfFrom, Bool.and_eq_true, decide_eq_true_eq] at h'
    unfold Memory.write
    split
    · unfold Memory.entry
      split
      · rw [‹v = _›]
        simp only [Memory.read, show ¬ a = b by omega, if_false]
        exact read_below cells rest (b + 1) a h'.2 (by omega)
      · simp [Memory.read]
    · split
      · subst a
        unfold Memory.entry
        split
        · rw [‹v = _›]; exact read_below cells rest (b + 1) b h'.2 (by omega)
        · simp [Memory.read]
      · simp only [Memory.read, show ¬ a = b by omega, if_false]
        exact read_write_same cells rest (b + 1) a v h'.2

/-- A write leaves every other cell alone. -/
theorem read_write_other : ∀ (m : Memory) (a c : Nat) (v : Word), c ≠ a →
    Memory.read (Memory.write m a v) c = Memory.read m c
  | [], a, c, v, h => by
    unfold Memory.write Memory.entry
    split
    · rfl
    · simp [Memory.read, h]
  | (b, w) :: rest, a, c, v, h => by
    unfold Memory.write
    split
    · unfold Memory.entry
      split
      · rfl
      · conv_lhs => rw [Memory.read]
        simp [h]
    · split
      · subst a
        unfold Memory.entry
        split <;> simp [Memory.read, h]
      · simp only [Memory.read]
        rw [read_write_other rest a c v h]

/-- Two memories in canonical form that read alike at every index are equal data. -/
theorem wfFrom_ext (cells : Nat) : ∀ (m n : Memory) (lo : Nat), Memory.wfFrom cells lo m = true →
    Memory.wfFrom cells lo n = true → (∀ a, Memory.read m a = Memory.read n a) → m = n
  | [], [], _, _, _, _ => rfl
  | [], (b, v) :: rest, _, _, hn, h => by
    simp only [Memory.wfFrom, Bool.and_eq_true, decide_eq_true_eq] at hn
    have := h b
    simp [Memory.read] at this
    exact absurd this.symm hn.1.2
  | (b, v) :: rest, [], _, hm, _, h => by
    simp only [Memory.wfFrom, Bool.and_eq_true, decide_eq_true_eq] at hm
    have := h b
    simp [Memory.read] at this
    exact absurd this hm.1.2
  | (b, v) :: rest, (c, w) :: rest', lo, hm, hn, h => by
    simp only [Memory.wfFrom, Bool.and_eq_true, decide_eq_true_eq] at hm hn
    have hb := h b
    have hc := h c
    simp only [Memory.read, if_true] at hb hc
    have hbc : b = c := by
      by_contra hne
      rcases Nat.lt_or_gt_of_ne hne with hlt | hgt
      · rw [if_neg hne, read_below cells rest' (c + 1) b hn.2 (by omega)] at hb
        exact hm.1.2 hb
      · rw [if_neg (Ne.symm hne), read_below cells rest (b + 1) c hm.2 (by omega)] at hc
        exact hn.1.2 hc.symm
    subst c
    rw [if_pos rfl] at hb
    subst w
    have : rest = rest' := by
      refine wfFrom_ext cells rest rest' (b + 1) hm.2 hn.2 fun a => ?_
      have ha := h a
      simp only [Memory.read] at ha
      by_cases hab : a = b
      · subst a
        rw [read_below cells rest (b + 1) b hm.2 (by omega), read_below cells rest' (b + 1) b hn.2 (by omega)]
      · simpa [hab] using ha
    rw [this]

theorem wf_ext {cells : Nat} {m n : Memory} (hm : Memory.wf cells m = true) (hn : Memory.wf cells n = true)
    (h : ∀ a, Memory.read m a = Memory.read n a) : m = n :=
  wfFrom_ext cells m n 0 hm hn h

end Machine
end Sys2Proof
end

