-- ==== Sys2Proof/Laws/Operands.lean ====
section
/-! SUPPORT. The 16-bit arithmetic in the terms of bit vectors and of numbers. -/

namespace Sys2Proof
namespace Machine

@[simp] theorem add16_eq (a b : Word) : add16 a b = a + b := by
  simp [add16, BitVec.toNat_eq]

@[simp] theorem sub16_eq (a b : Word) : sub16 a b = a - b := by
  apply BitVec.eq_of_toNat_eq
  simp only [sub16, BitVec.toNat_ofInt, BitVec.toNat_sub]
  omega

@[simp] theorem mul16_eq (a b : Word) : mul16 a b = a * b := by
  simp [mul16, BitVec.toNat_eq]

theorem shiftLeftMod_toNat (modulus : Nat) (shift value : Word) :
    (shiftLeftMod modulus shift value).toNat = value.toNat * 2 ^ (shift.toNat % modulus) % 65536 := by
  simp [shiftLeftMod]

theorem shiftRightMod_toNat (modulus : Nat) (shift value : Word) :
    (shiftRightMod modulus shift value).toNat = value.toNat / 2 ^ (shift.toNat % modulus) := by
  simp only [shiftRightMod, BitVec.toNat_ofNat]
  exact Nat.mod_eq_of_lt (Nat.lt_of_le_of_lt (Nat.div_le_self _ _) value.isLt)

/-- The index below `sp` is in range exactly when `sp` is 1 to 1024. -/
theorem pred_lt_iff (sp : Word) : (sp - 1).toNat < 1024 ↔ 1 ≤ sp.toNat ∧ sp.toNat ≤ 1024 := by
  bv_omega

/-- The index above `sp` is in range exactly when `sp` is 0 to 1022 or 65535. -/
theorem succ_lt_iff (sp : Word) : (sp + 1).toNat < 1024 ↔ sp.toNat ≤ 1022 ∨ sp.toNat = 65535 := by
  bv_omega

theorem isNonzero_iff (v : Word) : isNonzero v = true ↔ v ≠ 0 := by
  simp [isNonzero, BitVec.toNat_eq]

end Machine
end Sys2Proof
end

