-- ==== Sys2Proof/Laws/State.lean ====
section
/-! SUPPORT. One lemma per field and update of State, so that no proof unfolds a record update. -/

namespace Sys2Proof
namespace Machine

@[simp] theorem setSp_stack (s : State) (v : Word) : (s.setSp v).stack = s.stack := (rfl)
@[simp] theorem setSp_program (s : State) (v : Word) : (s.setSp v).program = s.program := (rfl)
@[simp] theorem setSp_sp (s : State) (v : Word) : (s.setSp v).sp = v := (rfl)
@[simp] theorem setSp_ip (s : State) (v : Word) : (s.setSp v).ip = s.ip := (rfl)
@[simp] theorem setSp_status (s : State) (v : Word) : (s.setSp v).status = s.status := (rfl)
@[simp] theorem setSp_exitCode (s : State) (v : Word) : (s.setSp v).exitCode = s.exitCode := (rfl)
@[simp] theorem setSp_faultCause (s : State) (v : Word) : (s.setSp v).faultCause = s.faultCause := (rfl)
@[simp] theorem setSp_outValue (s : State) (v : Word) : (s.setSp v).outValue = s.outValue := (rfl)
@[simp] theorem setSp_outValid (s : State) (v : Word) : (s.setSp v).outValid = s.outValid := (rfl)

@[simp] theorem setIp_stack (s : State) (v : Word) : (s.setIp v).stack = s.stack := (rfl)
@[simp] theorem setIp_program (s : State) (v : Word) : (s.setIp v).program = s.program := (rfl)
@[simp] theorem setIp_sp (s : State) (v : Word) : (s.setIp v).sp = s.sp := (rfl)
@[simp] theorem setIp_ip (s : State) (v : Word) : (s.setIp v).ip = v := (rfl)
@[simp] theorem setIp_status (s : State) (v : Word) : (s.setIp v).status = s.status := (rfl)
@[simp] theorem setIp_exitCode (s : State) (v : Word) : (s.setIp v).exitCode = s.exitCode := (rfl)
@[simp] theorem setIp_faultCause (s : State) (v : Word) : (s.setIp v).faultCause = s.faultCause := (rfl)
@[simp] theorem setIp_outValue (s : State) (v : Word) : (s.setIp v).outValue = s.outValue := (rfl)
@[simp] theorem setIp_outValid (s : State) (v : Word) : (s.setIp v).outValid = s.outValid := (rfl)

@[simp] theorem setCell_stack (s : State) (i : Nat) (v : Word) : (s.setCell i v).stack = Memory.write s.stack i v := (rfl)
@[simp] theorem setCell_program (s : State) (i : Nat) (v : Word) : (s.setCell i v).program = s.program := (rfl)
@[simp] theorem setCell_sp (s : State) (i : Nat) (v : Word) : (s.setCell i v).sp = s.sp := (rfl)
@[simp] theorem setCell_ip (s : State) (i : Nat) (v : Word) : (s.setCell i v).ip = s.ip := (rfl)
@[simp] theorem setCell_status (s : State) (i : Nat) (v : Word) : (s.setCell i v).status = s.status := (rfl)
@[simp] theorem setCell_exitCode (s : State) (i : Nat) (v : Word) : (s.setCell i v).exitCode = s.exitCode := (rfl)
@[simp] theorem setCell_faultCause (s : State) (i : Nat) (v : Word) : (s.setCell i v).faultCause = s.faultCause := (rfl)
@[simp] theorem setCell_outValue (s : State) (i : Nat) (v : Word) : (s.setCell i v).outValue = s.outValue := (rfl)
@[simp] theorem setCell_outValid (s : State) (i : Nat) (v : Word) : (s.setCell i v).outValid = s.outValid := (rfl)

@[simp] theorem advanceIp_stack (s : State) : (s.advanceIp).stack = s.stack := (rfl)
@[simp] theorem advanceIp_program (s : State) : (s.advanceIp).program = s.program := (rfl)
@[simp] theorem advanceIp_sp (s : State) : (s.advanceIp).sp = s.sp := (rfl)
@[simp] theorem advanceIp_ip (s : State) : (s.advanceIp).ip = add16 s.ip 1 := (rfl)
@[simp] theorem advanceIp_status (s : State) : (s.advanceIp).status = s.status := (rfl)
@[simp] theorem advanceIp_exitCode (s : State) : (s.advanceIp).exitCode = s.exitCode := (rfl)
@[simp] theorem advanceIp_faultCause (s : State) : (s.advanceIp).faultCause = s.faultCause := (rfl)
@[simp] theorem advanceIp_outValue (s : State) : (s.advanceIp).outValue = s.outValue := (rfl)
@[simp] theorem advanceIp_outValid (s : State) : (s.advanceIp).outValid = s.outValid := (rfl)

@[simp] theorem takeFault_stack (f : Fault) (s : State) : (takeFault f s).stack = s.stack := (rfl)
@[simp] theorem takeFault_program (f : Fault) (s : State) : (takeFault f s).program = s.program := (rfl)
@[simp] theorem takeFault_sp (f : Fault) (s : State) : (takeFault f s).sp = s.sp := (rfl)
@[simp] theorem takeFault_ip (f : Fault) (s : State) : (takeFault f s).ip = s.ip := (rfl)
@[simp] theorem takeFault_status (f : Fault) (s : State) : (takeFault f s).status = .faulted := (rfl)
@[simp] theorem takeFault_exitCode (f : Fault) (s : State) : (takeFault f s).exitCode = 1 := (rfl)
@[simp] theorem takeFault_faultCause (f : Fault) (s : State) : (takeFault f s).faultCause = f.cause := (rfl)
@[simp] theorem takeFault_outValue (f : Fault) (s : State) : (takeFault f s).outValue = s.outValue := (rfl)
@[simp] theorem takeFault_outValid (f : Fault) (s : State) : (takeFault f s).outValid = s.outValid := (rfl)

@[simp] theorem haltWith_stack (v : Word) (s : State) : (haltWith v s).stack = s.stack := (rfl)
@[simp] theorem haltWith_program (v : Word) (s : State) : (haltWith v s).program = s.program := (rfl)
@[simp] theorem haltWith_sp (v : Word) (s : State) : (haltWith v s).sp = s.sp := (rfl)
@[simp] theorem haltWith_ip (v : Word) (s : State) : (haltWith v s).ip = s.ip := (rfl)
@[simp] theorem haltWith_status (v : Word) (s : State) : (haltWith v s).status = .halted := (rfl)
@[simp] theorem haltWith_exitCode (v : Word) (s : State) : (haltWith v s).exitCode = 0 := (rfl)
@[simp] theorem haltWith_faultCause (v : Word) (s : State) : (haltWith v s).faultCause = s.faultCause := (rfl)
@[simp] theorem haltWith_outValue (v : Word) (s : State) : (haltWith v s).outValue = v := (rfl)
@[simp] theorem haltWith_outValid (v : Word) (s : State) : (haltWith v s).outValid = true := (rfl)

@[simp] theorem lowerStrobe_stack (s : State) : (s.lowerStrobe).stack = s.stack := (rfl)
@[simp] theorem lowerStrobe_program (s : State) : (s.lowerStrobe).program = s.program := (rfl)
@[simp] theorem lowerStrobe_sp (s : State) : (s.lowerStrobe).sp = s.sp := (rfl)
@[simp] theorem lowerStrobe_ip (s : State) : (s.lowerStrobe).ip = s.ip := (rfl)
@[simp] theorem lowerStrobe_status (s : State) : (s.lowerStrobe).status = s.status := (rfl)
@[simp] theorem lowerStrobe_exitCode (s : State) : (s.lowerStrobe).exitCode = s.exitCode := (rfl)
@[simp] theorem lowerStrobe_faultCause (s : State) : (s.lowerStrobe).faultCause = s.faultCause := (rfl)
@[simp] theorem lowerStrobe_outValue (s : State) : (s.lowerStrobe).outValue = s.outValue := (rfl)
@[simp] theorem lowerStrobe_outValid (s : State) : (s.lowerStrobe).outValid = false := (rfl)

@[simp] theorem beginStep_stack (s : State) : (s.beginStep).stack = s.stack := (rfl)
@[simp] theorem beginStep_program (s : State) : (s.beginStep).program = s.program := (rfl)
@[simp] theorem beginStep_sp (s : State) : (s.beginStep).sp = s.sp := (rfl)
@[simp] theorem beginStep_ip (s : State) : (s.beginStep).ip = s.ip := (rfl)
@[simp] theorem beginStep_status (s : State) : (s.beginStep).status = .running := (rfl)
@[simp] theorem beginStep_exitCode (s : State) : (s.beginStep).exitCode = s.exitCode := (rfl)
@[simp] theorem beginStep_faultCause (s : State) : (s.beginStep).faultCause = s.faultCause := (rfl)
@[simp] theorem beginStep_outValue (s : State) : (s.beginStep).outValue = s.outValue := (rfl)
@[simp] theorem beginStep_outValid (s : State) : (s.beginStep).outValid = false := (rfl)

end Machine
end Sys2Proof
end

