-- ==== Sys2Proof/Laws/Ops.lean ====
section
/-! SUPPORT. What each shared operation can do, said once: its result where it has one, and where it raises which fault. -/

namespace Sys2Proof
namespace Machine

/-! ### Checked accesses -/

theorem memRead_of_lt {s : State} {a : Word} (h : a.toNat < 1024) :
    memRead s a = .ok (Memory.read s.stack a.toNat) := by
  simp only [memRead, Config.stackCells_eq, ge_iff_le, show ¬ 1024 ≤ a.toNat by omega, if_false]

theorem memRead_of_ge {s : State} {a : Word} (h : 1024 ≤ a.toNat) : memRead s a = .error .stackRange := by
  simp [memRead, h]

theorem memWrite_of_lt {s : State} {a v : Word} (h : a.toNat < 1024) :
    memWrite s a v = .ok (s.setCell a.toNat v) := by
  simp only [memWrite, Config.stackCells_eq, ge_iff_le, show ¬ 1024 ≤ a.toNat by omega, if_false]

theorem memWrite_of_ge {s : State} {a v : Word} (h : 1024 ≤ a.toNat) : memWrite s a v = .error .stackRange := by
  simp [memWrite, h]

theorem fetch_of_lt {s : State} (h : s.ip.toNat < 1024) :
    fetch s = .ok (Memory.read s.program s.ip.toNat, s.advanceIp) := by
  simp only [fetch, Config.progCells_eq, ge_iff_le, show ¬ 1024 ≤ s.ip.toNat by omega, if_false]

theorem fetch_of_ge {s : State} (h : 1024 ≤ s.ip.toNat) : fetch s = .error .programRange := by
  simp [fetch, h]

theorem fetchImmediate_of_lt {s : State} (v : Word) (h : s.ip.toNat < 1024) :
    fetchImmediate v s = .ok (v, s.advanceIp) := by
  simp only [fetchImmediate, Config.progCells_eq, ge_iff_le, show ¬ 1024 ≤ s.ip.toNat by omega, if_false]

theorem fetchImmediate_of_ge {s : State} (v : Word) (h : 1024 ≤ s.ip.toNat) :
    fetchImmediate v s = .error .programRange := by
  simp [fetchImmediate, h]

/-! ### Patterns -/

theorem pushValue_of_lt {s : State} (f : State → Word) (h : (s.sp + 1).toNat < 1024) :
    pushValue f s = .ok ((s.setSp (s.sp + 1)).setCell (s.sp + 1).toNat (f (s.setSp (s.sp + 1)))) := by
  simp only [pushValue, pushIndex, topIndex, add16_eq, setSp_sp]
  exact memWrite_of_lt h

theorem pushValue_of_ge {s : State} (f : State → Word) (h : 1024 ≤ (s.sp + 1).toNat) :
    pushValue f s = .error .stackRange := by
  simp only [pushValue, pushIndex, topIndex, add16_eq, setSp_sp]
  exact memWrite_of_ge h

theorem popPair_of_lt {s : State} (f : Word → Word → Word) (h : s.sp.toNat < 1024) (h' : (s.sp - 1).toNat < 1024) :
    popPair f s = .ok ((s.setSp (s.sp - 1)).setCell (s.sp - 1).toNat
      (f (Memory.read s.stack s.sp.toNat) (Memory.read s.stack (s.sp - 1).toNat))) := by
  simp only [popPair, readTop, topIndex, secondIndex, sub16_eq, setSp_sp, memRead_of_lt h, memRead_of_lt h', setSp_stack,
    bind, Except.bind]
  exact memWrite_of_lt h'

theorem popPair_of_ge {s : State} (f : Word → Word → Word)
    (h : 1024 ≤ s.sp.toNat ∨ 1024 ≤ (s.sp - 1).toNat) : popPair f s = .error .stackRange := by
  by_cases h1 : 1024 ≤ s.sp.toNat
  · simp only [popPair, readTop, topIndex, memRead_of_ge h1, bind, Except.bind]
  · have h2 := h.resolve_left h1
    simp only [popPair, readTop, topIndex, secondIndex, sub16_eq, setSp_sp, memRead_of_lt (Nat.lt_of_not_le h1),
      memRead_of_ge h2, bind, Except.bind]

theorem updateTop_of_lt {s : State} (f : Word → Word) (h : s.sp.toNat < 1024) :
    updateTop f s = .ok (s.setCell s.sp.toNat (f (Memory.read s.stack s.sp.toNat))) := by
  simp only [updateTop, readTop, topIndex, memRead_of_lt h, memWrite_of_lt h, bind, Except.bind]

theorem updateTop_of_ge {s : State} (f : Word → Word) (h : 1024 ≤ s.sp.toNat) :
    updateTop f s = .error .stackRange := by
  simp only [updateTop, readTop, topIndex, memRead_of_ge h, bind, Except.bind]

/-! ### One instruction and one step -/

/-- All that running an instruction can do: commit the state its body answers, or take its fault from the state before. -/
theorem atomically_cases (s : State) (body : State → Except Fault State) :
    (∃ t, body s.advanceIp = .ok t ∧ atomically s body = .next t) ∨
    (∃ f, body s.advanceIp = .error f ∧ atomically s body = .next (takeFault f s)) := by
  unfold atomically
  split
  · exact .inl ⟨_, ‹_›, rfl⟩
  · exact .inr ⟨_, ‹_›, rfl⟩

theorem atomically_of_ok {s t : State} {body : State → Except Fault State} (h : body s.advanceIp = .ok t) :
    atomically s body = .next t := by
  simp only [atomically, h]

theorem atomically_of_error {s : State} {f : Fault} {body : State → Except Fault State}
    (h : body s.advanceIp = .error f) : atomically s body = .next (takeFault f s) := by
  simp only [atomically, h]

/-- All that a step can do: hold an ended run, run the instruction at `ip`, or take the fault of its fetch. -/
theorem stepWith_cases (m : OpMap) (s : State) :
    ((s.status = .halted ∨ s.status = .faulted) ∧ stepWith m s = .next s.lowerStrobe) ∨
    ((s.status = .idle ∨ s.status = .running) ∧
      ((∃ i, fetchInstr m s.beginStep = .ok i ∧ stepWith m s = exec i s.beginStep) ∨
       (∃ f, fetchInstr m s.beginStep = .error f ∧ stepWith m s = .next (takeFault f s.beginStep)))) := by
  unfold stepWith runInstr
  cases hs : s.status <;> cases hf : fetchInstr m s.beginStep <;> simp

/-- The program words a step can take, by the value of `ip`. -/
theorem wordsAt_eq (s : State) :
    wordsAt s =
      if 1024 ≤ s.ip.toNat then []
      else if s.ip.toNat = 1023 then [Memory.read s.program 1023]
      else [Memory.read s.program s.ip.toNat, Memory.read s.program (s.ip.toNat + 1)] := by
  unfold wordsAt
  by_cases h : 1024 ≤ s.ip.toNat
  · rw [fetch_of_ge h, if_pos h]
  · have e : s.advanceIp.ip = s.ip + 1 := by rw [advanceIp_ip, add16_eq]
    rw [fetch_of_lt (by omega), if_neg h]
    by_cases h2 : s.ip.toNat = 1023
    · simp only []
      rw [fetch_of_ge (by rw [e]; bv_omega), if_pos h2, h2]
    · have e2 : (s.ip + 1).toNat = s.ip.toNat + 1 := by bv_omega
      simp only []
      rw [fetch_of_lt (by rw [e]; bv_omega), if_neg h2, e, e2, advanceIp_program]

@[simp] theorem wordsAt_beginStep (s : State) : wordsAt s.beginStep = wordsAt s := by
  rw [wordsAt_eq, wordsAt_eq, beginStep_ip, beginStep_program]

@[simp] theorem fetchInstr_beginStep (m : OpMap) (s : State) : fetchInstr m s.beginStep = fetchInstr m s := by
  rw [fetchInstr, fetchInstr, wordsAt_beginStep]

end Machine
end Sys2Proof
end

