-- ==== Sys2Proof/Laws/PerInstr.lean ====
section
/-! SUPPORT. Statements about every instruction as syntax, one lemma per constructor. `EncodingShape`: an instruction's
encoding is its opcode word and, for PUSH only, one more word (30_encoding.md R50, R55). -/

namespace Sys2Proof
namespace Laws
namespace EncodingShape

/-- Under every `OPMAP`, the encoding has as many words as `Instr.length` says, one or two. -/
def Statement (i : Instr) : Prop :=
  ∀ m : OpMap, (encodeWith m i).length = i.length ∧ 1 ≤ i.length ∧ i.length ≤ 2

theorem push (imm : Word) : Statement (.push imm) := fun _ => ⟨rfl, by simp [Instr.length], by simp [Instr.length]⟩
theorem pip : Statement .pip := fun _ => ⟨rfl, by decide, by decide⟩
theorem psp : Statement .psp := fun _ => ⟨rfl, by decide, by decide⟩
theorem add : Statement .add := fun _ => ⟨rfl, by decide, by decide⟩
theorem sub : Statement .sub := fun _ => ⟨rfl, by decide, by decide⟩
theorem mul : Statement .mul := fun _ => ⟨rfl, by decide, by decide⟩
theorem lsf : Statement .lsf := fun _ => ⟨rfl, by decide, by decide⟩
theorem rsf : Statement .rsf := fun _ => ⟨rfl, by decide, by decide⟩
theorem inc : Statement .inc := fun _ => ⟨rfl, by decide, by decide⟩
theorem dec : Statement .dec := fun _ => ⟨rfl, by decide, by decide⟩
theorem iip : Statement .iip := fun _ => ⟨rfl, by decide, by decide⟩
theorem dip : Statement .dip := fun _ => ⟨rfl, by decide, by decide⟩
theorem isp : Statement .isp := fun _ => ⟨rfl, by decide, by decide⟩
theorem dsp : Statement .dsp := fun _ => ⟨rfl, by decide, by decide⟩
theorem call : Statement .call := fun _ => ⟨rfl, by decide, by decide⟩
theorem ret : Statement .ret := fun _ => ⟨rfl, by decide, by decide⟩
theorem jnz : Statement .jnz := fun _ => ⟨rfl, by decide, by decide⟩
theorem ssp : Statement .ssp := fun _ => ⟨rfl, by decide, by decide⟩
theorem jmp : Statement .jmp := fun _ => ⟨rfl, by decide, by decide⟩
theorem halt : Statement .halt := fun _ => ⟨rfl, by decide, by decide⟩
theorem nop (opcode : Word) : Statement (.nop opcode) := fun _ => ⟨rfl, by simp [Instr.length], by simp [Instr.length]⟩

end EncodingShape
end Laws
end Sys2Proof
end

