-- ==== Sys2Proof/Machine/Assembly.lean ====
section
/-! DEFINITION. The program notation of 30_encoding.md R58: a list whose element `k` is the word at program index `k`, a mnemonic
standing for its opcode word and a number for itself. Text is out of scope (00_scope.md R3). -/

namespace Sys2Proof
namespace Machine

/-- One element of a bracketed program list. -/
inductive ProgramElement where
  /-- one of the 20 mnemonics -/
  | mnemonic (x : Mnemonic)
  /-- a number in 0 to 65535: an immediate after PUSH, a raw word elsewhere -/
  | number (w : Word)
  deriving DecidableEq, Repr

/-- The word an element stands for. -/
def ProgramElement.word (m : OpMap) : ProgramElement → Word
  | .mnemonic x => m x
  | .number w => w

/-- The words of a bracketed program list. -/
def programWords (m : OpMap) (p : List ProgramElement) : List Word :=
  p.map (ProgramElement.word m)

end Machine
end Sys2Proof
end

