-- ==== Sys2Proof/Tests/Slice0.lean ====
section
/-! SUPPORT. Tests against the words of 30_encoding.md R53 and the vectors of 95_test_vectors.md (V, P), each one step; the
smoke test of WellFormed; and for every obligation with hypotheses a witness that meets them. Expected values are the
spec's. -/

namespace Sys2Proof
namespace Machine
namespace Tests

/-- A RUNNING machine with the given pointers, stack cells and program cells. -/
def mk (sp ip : Word) (stack program : Memory) : State :=
  { State.reset with sp := sp, ip := ip, stack := stack, program := program, status := .running }

/-- The next state a step answers. -/
def nextOf : Result → Option State
  | .next t => some t
  | .fault _ => none
  | .refused _ => none

/-- One step of the machine, and what is to be seen of the state after it. -/
def see {α : Type} (f : State → α) (s : State) : Option α :=
  (nextOf (step s)).map f

/-- The cell of the stack after a step. -/
def cell (s : State) (i : Nat) : Word :=
  Memory.read s.stack i

/-! ### WellFormed -/

theorem test_nop_of_an_assigned_word_is_ill_formed : (Instr.nop 0x0014).wellFormed defaultOpMap = false := by decide
theorem test_nop_of_a_free_word_is_well_formed : (Instr.nop 0x0015).wellFormed defaultOpMap = true := by decide
theorem test_push_of_any_word_is_well_formed : (Instr.push 0x0014).wellFormed defaultOpMap = true := by decide

/-! ### Decoding (the words of 30_encoding.md R53, written bit by bit) -/

theorem test_decode_push : decode [0b0000000000000001, 0b1111111111111111] = .ok (.push 65535, []) := by rfl
theorem test_decode_pip : decode [0b0000000000000010] = .ok (.pip, []) := by rfl
theorem test_decode_psp : decode [0b0000000000000011] = .ok (.psp, []) := by rfl
theorem test_decode_add : decode [0b0000000000000100] = .ok (.add, []) := by rfl
theorem test_decode_sub : decode [0b0000000000000101] = .ok (.sub, []) := by rfl
theorem test_decode_mul : decode [0b0000000000000110] = .ok (.mul, []) := by rfl
theorem test_decode_lsf : decode [0b0000000000000111] = .ok (.lsf, []) := by rfl
theorem test_decode_rsf : decode [0b0000000000001000] = .ok (.rsf, []) := by rfl
theorem test_decode_inc : decode [0b0000000000001001] = .ok (.inc, []) := by rfl
theorem test_decode_dec : decode [0b0000000000001010] = .ok (.dec, []) := by rfl
theorem test_decode_iip : decode [0b0000000000001011] = .ok (.iip, []) := by rfl
theorem test_decode_dip : decode [0b0000000000001100] = .ok (.dip, []) := by rfl
theorem test_decode_isp : decode [0b0000000000001101] = .ok (.isp, []) := by rfl
theorem test_decode_dsp : decode [0b0000000000001110] = .ok (.dsp, []) := by rfl
theorem test_decode_call : decode [0b0000000000001111] = .ok (.call, []) := by rfl
theorem test_decode_ret : decode [0b0000000000010000] = .ok (.ret, []) := by rfl
theorem test_decode_jnz : decode [0b0000000000010001] = .ok (.jnz, []) := by rfl
theorem test_decode_ssp : decode [0b0000000000010010] = .ok (.ssp, []) := by rfl
theorem test_decode_jmp : decode [0b0000000000010011] = .ok (.jmp, []) := by rfl
theorem test_decode_halt : decode [0b0000000000010100] = .ok (.halt, []) := by rfl
theorem test_decode_nop_takes_one_word : decode [0b0000000000010101, 7] = .ok (.nop 0x0015, [7]) := by rfl
theorem test_decode_nothing : decode [] = .error .noOpcode := by rfl
theorem test_decode_push_without_immediate : decode [1] = .error .noImmediate := by rfl
theorem test_table_word_push : decodeTableWord 32 0x00050001 = some (.push 5) := by rfl
theorem test_table_word_nop : decodeTableWord 16 0 = some (.nop 0) := by rfl

/-- The words of P1 (95_test_vectors.md S1): `[PUSH, 5, PUSH, 3, ADD, HALT]`. -/
theorem test_program_words :
    programWords defaultOpMap
      [.mnemonic .push, .number 5, .mnemonic .push, .number 3, .mnemonic .add, .mnemonic .halt] =
      [0x0001, 0x0005, 0x0001, 0x0003, 0x0004, 0x0014] := by rfl

/-! ### One step each -/

/-- V1, from IDLE. -/
theorem test_push : see (fun t => (t.ip, t.sp, cell t 1, cell t 0, t.status))
    { State.reset with program := [(0, 1), (1, 5)] } = some (2, 1, 5, 0, .running) := by decide
/-- V4b: the immediate's fetch comes before the write. -/
theorem test_push_at_the_last_cell : see (fun t => (t.ip, t.sp, t.faultCause, t.exitCode, t.status))
    (mk 1023 1023 [] [(1023, 1)]) = some (1023, 1023, 1, 1, .faulted) := by decide
/-- V5. -/
theorem test_pip : see (fun t => (t.sp, cell t 1, t.ip)) (mk 0 7 [] [(7, 2)]) = some (1, 8, 8) := by decide
/-- V7b. -/
theorem test_pip_full : see (fun t => (t.sp, t.faultCause)) (mk 1023 7 [] [(7, 2)]) = some (1023, 2) := by decide
/-- V6. -/
theorem test_psp : see (fun t => (t.sp, cell t 5)) (mk 4 0 [] [(0, 3)]) = some (5, 5) := by decide
/-- V6b: the new `sp` is 0. -/
theorem test_psp_wraps : see (fun t => (t.sp, t.stack, t.status)) (mk 65535 0 [] [(0, 3)]) =
    some (0, [], .running) := by decide
/-- V11: the second operand is cell 0. -/
theorem test_add : see (fun t => (t.sp, t.stack)) (mk 1 0 [(0, 4), (1, 6)] [(0, 4)]) =
    some (0, [(0, 10), (1, 6)]) := by decide
/-- V8: rolled back. -/
theorem test_add_underflow : see (fun t => (t.sp, t.ip, t.faultCause)) (mk 0 0 [] [(0, 4)]) = some (0, 0, 2) := by decide
/-- V12: top minus second. -/
theorem test_sub : see (fun t => (t.sp, cell t 1)) (mk 2 0 [(1, 5), (2, 3)] [(0, 5)]) = some (1, 65534) := by decide
/-- V17. -/
theorem test_mul : see (fun t => cell t 1) (mk 2 0 [(1, 300), (2, 300)] [(0, 6)]) = some 24464 := by decide
/-- V24b: 0xFFE4 mod 32 = 4. -/
theorem test_lsf : see (fun t => cell t 1) (mk 2 0 [(1, 0x1234), (2, 0xFFE4)] [(0, 7)]) = some 0x2340 := by decide
/-- V21 (decision D6). -/
theorem test_lsf_16 : see (fun t => cell t 1) (mk 2 0 [(1, 1), (2, 16)] [(0, 7)]) = some 0 := by decide
/-- V26. -/
theorem test_rsf : see (fun t => cell t 1) (mk 2 0 [(1, 0x8000), (2, 33)] [(0, 8)]) = some 0x4000 := by decide
/-- V30. -/
theorem test_inc_wraps : see (fun t => (t.sp, t.stack)) (mk 1 0 [(1, 65535)] [(0, 9)]) = some (1, []) := by decide
/-- V32. -/
theorem test_dec_wraps : see (fun t => (t.sp, cell t 0)) (mk 0 0 [] [(0, 10)]) = some (0, 65535) := by decide
/-- V35: no fault in this step. -/
theorem test_iip : see (fun t => (t.ip, t.status)) (mk 0 1023 [] [(1023, 11)]) = some (1025, .running) := by decide
/-- V36. -/
theorem test_dip : see State.ip (mk 0 9 [] [(9, 12)]) = some 9 := by decide
/-- V37. -/
theorem test_isp : see (fun t => (t.sp, t.status)) (mk 1023 0 [] [(0, 13)]) = some (1024, .running) := by decide
/-- V40, and V39. -/
theorem test_dsp : see (fun t => (t.sp, cell t 5)) (mk 5 0 [(5, 77)] [(0, 14)]) = some (4, 77) := by decide
theorem test_dsp_wraps : see (fun t => (t.sp, t.status)) (mk 0 0 [] [(0, 14)]) = some (65535, .running) := by decide
/-- V42, V43. -/
theorem test_ssp : see (fun t => (t.sp, t.status)) (mk 1 0 [(1, 2000)] [(0, 18)]) = some (2000, .running) := by decide
theorem test_ssp_out_of_range : see State.faultCause (mk 1024 0 [] [(0, 18)]) = some 2 := by decide
/-- V44. -/
theorem test_call : see (fun t => (t.ip, t.sp, t.stack)) (mk 2 4 [(1, 7), (2, 8)] [(4, 15)]) =
    some (8, 2, [(1, 5), (2, 7)]) := by decide
/-- V45. -/
theorem test_call_underflow : see (fun t => (t.ip, t.sp, t.faultCause)) (mk 0 0 [] [(0, 15)]) = some (0, 0, 2) := by decide
/-- V47. -/
theorem test_ret : see (fun t => (t.ip, t.sp, t.stack)) (mk 2 0 [(1, 5), (2, 9)] [(0, 16)]) =
    some (5, 1, [(1, 9), (2, 9)]) := by decide
/-- V49, V50. -/
theorem test_jnz_taken : see (fun t => (t.ip, t.sp, t.stack)) (mk 2 5 [(1, 2), (2, 2)] [(5, 17)]) =
    some (2, 1, [(1, 2), (2, 2)]) := by decide
theorem test_jnz_not_taken : see (fun t => (t.ip, t.sp)) (mk 2 5 [(2, 2)] [(5, 17)]) = some (6, 1) := by decide
/-- V54, V54b. -/
theorem test_jmp : see (fun t => (t.ip, t.sp, t.status)) (mk 1 0 [(1, 1024)] [(0, 19)]) =
    some (1024, 1, .running) := by decide
theorem test_jmp_out_of_range : see State.status (mk 1024 0 [] [(0, 19)]) = some .faulted := by decide
/-- V55. -/
theorem test_halt : see (fun t => (outputEvent t, exitStatus t, t.status, t.ip, t.sp, cell t 1))
    (mk 1 5 [(1, 8)] [(5, 20)]) = some (some 8, some 0, .halted, 6, 1, 8) := by decide
/-- V58. -/
theorem test_halt_out_of_range : see (fun t => (outputEvent t, exitStatus t, t.status)) (mk 1024 0 [] [(0, 20)]) =
    some (none, some 1, .faulted) := by decide
/-- V61. -/
theorem test_nop : see (fun t => (t.ip, t.sp, t.status)) (mk 5000 3 [] []) = some (4, 5000, .running) := by decide
/-- V60. -/
theorem test_nop_ffff : see State.ip (mk 0 3 [] [(3, 0xFFFF)]) = some 4 := by decide
/-- V63: the next program index after 1023 is no cell. -/
theorem test_fetch_at_1024 : see (fun t => (t.ip, t.faultCause)) (mk 0 1024 [] []) = some (1024, 1) := by decide
/-- R75: an ended run holds. -/
theorem test_step_after_halt : see (fun t => (t.status, t.outValue, t.ip)) { mk 1 6 [] [] with status := .halted, outValue := 8 } =
    some (.halted, 8, 6) := by decide

/-! ### Host events and output -/

/-- V67: a second load leaves the tail of the first. -/
theorem test_second_load : (load [9] (load [1, 2, 3, 4] State.reset)).program = [(0, 9), (1, 2), (2, 3), (3, 4)] := by decide
/-- V67b. -/
theorem test_load_while_running : load [9] (mk 0 0 [] []) = mk 0 0 [] [] := by decide
/-- S4. -/
theorem test_output_text_65535 : outputText 65535 = [0x36, 0x35, 0x35, 0x33, 0x35, 0x0A] := by decide
theorem test_output_text_0 : outputText 0 = [0x30, 0x0A] := by decide

/-- A table word placed after reset is the instruction the next step runs. -/
theorem test_with_fetch_word : see (fun t => (t.sp, cell t 1, t.ip)) (State.reset.withFetchWord 32 0x00070001) =
    some (1, 7, 2) := by decide
theorem test_with_fetch_word_after_a_run :
    see (fun t => (t.sp, t.ip)) ({ mk 3 1023 [] [] with status := .faulted }.withFetchWord 16 0x000D) =
    some (4, 1) := by decide

/-! ### Witnesses of the obligations' hypotheses -/

/-- An `OPMAP` that is not the default. -/
def otherOpMap : OpMap := fun x => defaultOpMap x + 0x0100

theorem witness_admissible : otherOpMap.Admissible := by
  refine ⟨fun x y => ?_, fun x => ?_⟩
  · cases x <;> cases y <;> decide
  · cases x <;> decide
/-- For DecodeOfEncodeIsTheInstruction. -/
theorem witness_decode_of_encode : otherOpMap.Admissible ∧ (Instr.nop 0x0001).wellFormed otherOpMap = true ∧
    (Instr.push 0xFFFF).wellFormed otherOpMap = true := ⟨witness_admissible, by decide, by decide⟩
/-- For EncodeOfDecodeIsTheWords. -/
theorem witness_encode_of_decode : decodeWith otherOpMap [0x0101, 9, 4] = .ok (.push 9, [4]) := by rfl
/-- For DecodeFailsOnlyForWantOfAWord, both cases. -/
theorem witness_decode_fails : otherOpMap.Admissible ∧ decodeWith otherOpMap [] = .error .noOpcode ∧
    decodeWith otherOpMap [0x0101] = .error .noImmediate := ⟨witness_admissible, by rfl, by rfl⟩
/-- For UnassignedWordIsANoOp. -/
theorem witness_unassigned : ∀ x, otherOpMap x ≠ 0x0001 := by
  intro x; cases x <;> decide
/-- For StackWriteIsBoundsChecked: a canonical stack, and the last index in range and the first out of it. -/
theorem witness_stack_write : Memory.wf 1024 (mk 0 0 [(1023, 7)] []).stack = true ∧ (1023 : Word).toNat < 1024 ∧
    1024 ≤ (1024 : Word).toNat := by decide
/-- For FetchReadsAtIpAndAdvances: `ip` at the last cell and after it. -/
theorem witness_fetch : 1024 ≤ (mk 0 1024 [] []).ip.toNat ∧ (mk 0 1023 [] []).ip.toNat < 1024 := by decide
/-- For FetchSeesOnlyProgramAndIp: two states that differ in the stack and `sp`. -/
theorem witness_fetch_sees : (mk 0 3 [] [(3, 4)]).program = (mk 9 3 [(9, 1)] [(3, 4)]).program ∧
    (mk 0 3 [] [(3, 4)]).ip = (mk 9 3 [(9, 1)] [(3, 4)]).ip := by decide
/-- For InstructionFetchFaultsOutOfRangeOnly, both cases. -/
theorem witness_fetch_faults : otherOpMap.Admissible ∧
    fetchInstr otherOpMap (mk 0 1024 [] []) = .error .programRange ∧
    fetchInstr otherOpMap (mk 0 1023 [] [(1023, 0x0101)]) = .error .programRange :=
  ⟨witness_admissible, by rfl, by rfl⟩
/-- For PushPushesItsImmediate: the last cell, the wrap to cell 0, a full stack, the last two program cells. -/
theorem witness_push : (((mk 1022 1022 [] []).ip + 1).toNat < 1024 ∧ ((mk 1022 1022 [] []).sp + 1).toNat < 1024) ∧
    ((mk 65535 0 [] []).sp + 1).toNat < 1024 ∧ 1024 ≤ ((mk 0 1023 [] []).ip + 1).toNat ∧
    (((mk 1023 0 [] []).ip + 1).toNat < 1024 ∧ 1024 ≤ ((mk 1023 0 [] []).sp + 1).toNat) := by decide
/-- For PipAndPspPushThePointers and PushFamilyFrame. -/
theorem witness_pip_psp : ((mk 1022 0 [] []).sp + 1).toNat < 1024 ∧ 1024 ≤ ((mk 1023 0 [] []).sp + 1).toNat ∧
    (nextOf (exec .pip (mk 1022 0 [] []))).isSome = true ∧ (nextOf (exec (.push 1) (mk 1023 0 [] []))).isSome = true := by decide
/-- For the two-operand instructions, CALL and RET: `sp` at 1, 1023, 0 and 1024. -/
theorem witness_pair : (1 ≤ (mk 1 0 [] []).sp.toNat ∧ (mk 1 0 [] []).sp.toNat ≤ 1023) ∧
    (1 ≤ (mk 1023 0 [] []).sp.toNat ∧ (mk 1023 0 [] []).sp.toNat ≤ 1023) ∧
    (mk 0 0 [] []).sp.toNat = 0 ∧ 1024 ≤ (mk 1024 0 [] []).sp.toNat := by decide
/-- For JnzJumpsIfTheSecondIsNonzero: both outcomes of the test. -/
theorem witness_jnz : Memory.read (mk 1 0 [(0, 1)] []).stack ((mk 1 0 [(0, 1)] []).sp.toNat - 1) ≠ 0 ∧
    Memory.read (mk 1023 0 [] []).stack ((mk 1023 0 [] []).sp.toNat - 1) = 0 := by decide
/-- For INC, DEC, SSP, JMP, HALT: `sp` at 0, 1023 and 1024. -/
theorem witness_top : (mk 0 0 [] []).sp.toNat ≤ 1023 ∧ (mk 1023 0 [] []).sp.toNat ≤ 1023 ∧
    1024 ≤ (mk 1024 0 [] []).sp.toNat := by decide
/-- For HaltOutputsTheTop's last clause. -/
theorem witness_halt_only : exec .isp (mk 1 0 [] []) = .next (mk 2 1 [] []) ∧ Instr.isp ≠ .halt := ⟨by rfl, by decide⟩
/-- For NopOnlyMovesPastItsWord. -/
theorem witness_nop : (0x0015 : Word) = 0 ∨ 0x0015 ≤ (0x0015 : Word).toNat := by decide
/-- For the frames: each kind of instruction answers a next state, with and without a fault. -/
theorem witness_frames : (nextOf (exec .add (mk 1 0 [] []))).isSome = true ∧ (nextOf (exec .ret (mk 0 0 [] []))).isSome = true ∧
    (nextOf (exec .inc (mk 0 0 [] []))).isSome = true ∧ (nextOf (exec .call (mk 1 0 [] []))).isSome = true ∧
    (nextOf (exec .jmp (mk 0 0 [] []))).isSome = true ∧ (nextOf (exec .ssp (mk 1024 0 [] []))).isSome = true ∧
    (nextOf (exec .halt (mk 0 0 [] []))).isSome = true := by decide
/-- For InstructionFaultsIffAnAccessIsOutOfRange, both sides. -/
theorem witness_faults_iff : (mk 0 0 [] []).status ≠ .faulted ∧
    (nextOf (exec .add (mk 0 0 [] []))).map State.status = some .faulted ∧
    (nextOf (exec .add (mk 1 0 [] []))).map State.status = some .running := by decide
/-- For FaultingStepLeavesNoTrace. -/
theorem witness_faulting_step : CanStep (mk 0 0 [] [(0, 4)]) ∧
    (nextOf (stepWith defaultOpMap (mk 0 0 [] [(0, 4)]))).map State.status = some .faulted := ⟨.inr rfl, by decide⟩
/-- For OutOfRangeIpFaultsFirst. -/
theorem witness_ip_first : CanStep (mk 5000 1024 [] []) ∧ 1024 ≤ (mk 5000 1024 [] []).ip.toNat := ⟨.inr rfl, by decide⟩
/-- For StepRunsTheDecodedInstruction, from IDLE. -/
theorem witness_step_decoded : CanStep State.reset ∧ decode (wordsAt State.reset) = .ok (.nop 0, [0]) := ⟨.inl rfl, by rfl⟩
/-- For StepRunsTheEncodedInstruction: a PUSH in the last two cells. -/
theorem witness_step_encoded : otherOpMap.Admissible ∧ CanStep (mk 0 1022 [] [(1022, 0x0101), (1023, 7)]) ∧
    (Instr.push 7).wellFormed otherOpMap = true ∧
    (mk 0 1022 [] [(1022, 0x0101), (1023, 7)]).ip.toNat + (Instr.push 7).length ≤ 1024 ∧
    (encodeWith otherOpMap (.push 7))[0]? = some (Memory.read (mk 0 1022 [] [(1022, 0x0101), (1023, 7)]).program 1022) ∧
    (encodeWith otherOpMap (.push 7))[1]? = some (Memory.read (mk 0 1022 [] [(1022, 0x0101), (1023, 7)]).program 1023) :=
  ⟨witness_admissible, .inr rfl, by decide, by decide, by rfl, by rfl⟩
/-- For StepKeepsTheProgram. -/
theorem witness_step_program : stepWith defaultOpMap (mk 0 0 [] [(0, 0x000D)]) = .next (mk 1 1 [] [(0, 0x000D)]) := by rfl
/-- For OutputOnlyByHalt. -/
theorem witness_output : CanStep (mk 0 0 [] [(0, 0x0014)]) ∧
    (nextOf (stepWith defaultOpMap (mk 0 0 [] [(0, 0x0014)]))).map State.outValid = some true := ⟨.inr rfl, by decide⟩
/-- For StatusTransitions and StartThenStepIsStepFromIdle. -/
theorem witness_events : hostEvent .start State.reset = .next { State.reset with status := .running } ∧
    State.reset.status = .idle ∧ HasEnded (takeFault .stackRange State.reset) ∧ CanStep State.reset ∧
    (mk 0 0 [] []).status ≠ .idle := ⟨by rfl, by rfl, .inr rfl, .inl rfl, by decide⟩
/-- For EndedRunHoldsForEver. -/
theorem witness_ended : HasEnded (haltWith 8 State.reset) := .inl rfl
/-- For LoadCopiesTheWords: IDLE with an earlier load, and RUNNING. -/
theorem witness_load : (load [1, 2, 3, 4] State.reset).status = .idle ∧
    Memory.wf 1024 (load [1, 2, 3, 4] State.reset).program = true ∧ (mk 0 0 [] []).status ≠ .idle := by decide
/-- For StepKeepsInv. -/
theorem witness_inv : (mk 1 0 [(0, 4), (1, 6)] [(0, 4)]).Inv ∧
    (nextOf (stepWith defaultOpMap (mk 1 0 [(0, 4), (1, 6)] [(0, 4)]))).isSome = true :=
  ⟨⟨by decide, by decide, by decide, by decide⟩, by decide⟩
/-- For ReachableStatesAreConsistent: a loaded and started machine. -/
theorem witness_reachable : Reachable defaultOpMap (mk 0 0 [] [(0, 0x0014)]) :=
  .event (load [0x0014] State.reset) _ .start (.event State.reset _ (.load [0x0014]) .reset rfl) rfl
/-- For CallThenRetReturns: the callee is `RET` alone. -/
theorem witness_call_ret : 1 ≤ (mk 2 4 [(1, 7), (2, 8)] []).sp.toNat ∧ (mk 2 4 [(1, 7), (2, 8)] []).sp.toNat ≤ 1023 ∧
    Memory.wf 1024 (mk 2 4 [(1, 7), (2, 8)] []).stack = true ∧ Memory.wf 1024 (mk 2 8 [(1, 5), (2, 7)] []).stack = true ∧
    exec .call (mk 2 4 [(1, 7), (2, 8)] []) = .next (mk 2 8 [(1, 5), (2, 7)] []) :=
  ⟨by decide, by decide, by decide, by decide, by rfl⟩
/-- For DipRepeatsForEver. -/
theorem witness_dip : (mk 0 9 [] [(9, 12)]).status = .running ∧ (mk 0 9 [] [(9, 12)]).outValid = false ∧
    fetchInstr defaultOpMap (mk 0 9 [] [(9, 12)]) = .ok .dip := ⟨rfl, rfl, by rfl⟩
/-- For PushedPointersLeadBack. -/
theorem witness_pushed_pointers : Memory.wf 1024 (mk 65535 9 [(0, 1)] []).stack = true ∧
    ((mk 65535 9 [(0, 1)] []).sp + 1).toNat < 1024 := by decide

end Tests
end Machine
end Sys2Proof
end

/-! Family 20_memory.md: the checked access to the stack. -/

namespace Sys2Proof
namespace Machine

/-- Settles O7, by the two sides of 20_memory.md R35's check on the whole 16-bit index. -/
theorem stackReadIsBoundsChecked : Obligations.StackReadIsBoundsChecked := by
  intro s addr
  split
  case isTrue out_of_range => exact memRead_of_ge out_of_range
  case isFalse in_range => exact memRead_of_lt (Nat.lt_of_not_le in_range)

end Machine
end Sys2Proof

/-! Family 30_encoding.md: words that `OPMAP` does not assign, and the no-op they decode to. -/

namespace Sys2Proof

theorem decodeWith_cons_of_lookup_none {m : OpMap} {w : Word} (h : m.lookup w = none) (ws : List Word) :
    decodeWith m (w :: ws) = .ok (.nop w, ws) := by
  simp only [decodeWith, h]

theorem decodeWith_cons_of_lookup_some {m : OpMap} {w : Word} {x : Mnemonic} (h : m.lookup w = some x)
    (ws : List Word) : decodeWith m (w :: ws) = decodeOperands x ws := by
  simp only [decodeWith, h]

/-- With a word at hand for PUSH's immediate, every mnemonic has its instruction (30_encoding.md R55). -/
theorem decodeOperands_cons_ok (x : Mnemonic) (v : Word) (ws : List Word) :
    ∃ i rest, decodeOperands x (v :: ws) = .ok (i, rest) := by
  cases x <;> exact ⟨_, _, rfl⟩

/-- 30_encoding.md R54: no word value is an error, whether `OPMAP` assigns it or not. -/
theorem decodeWith_cons_cons_ok (m : OpMap) (w v : Word) (ws : List Word) :
    ∃ i rest, decodeWith m (w :: v :: ws) = .ok (i, rest) := by
  cases h : m.lookup w with
  | none => exact ⟨_, _, decodeWith_cons_of_lookup_none h (v :: ws)⟩
  | some x =>
    rw [decodeWith_cons_of_lookup_some h]
    exact decodeOperands_cons_ok x v ws

namespace Machine

theorem advanceIp_eq (s : State) : s.advanceIp = { s with ip := s.ip + 1 } := by
  rw [State.advanceIp, add16_eq, State.setIp]

/-- 45_halt_and_nop.md R141: the body of a no-op adds nothing to the opcode fetch, so `ip` alone moves. -/
theorem exec_nop (w : Word) (s : State) : exec (.nop w) s = .next { s with ip := s.ip + 1 } := by
  rw [← advanceIp_eq]
  exact atomically_of_ok rfl

/-- Settles O6, by the look-up that finds no mnemonic for an unassigned word, the two cases of that look-up for any word,
and the one next state of all no-ops. -/
theorem unassignedWordIsANoOp : Obligations.UnassignedWordIsANoOp := by
  intro m
  refine ⟨fun w rest unassigned => ?_, fun w v => ?_, fun w v s => ⟨?_, ?_⟩⟩
  · exact decodeWith_cons_of_lookup_none (lookup_none.mpr unassigned) rest
  · exact decodeWith_cons_cons_ok m w v []
  · rw [exec_nop w, exec_nop v]
  · exact exec_nop w s

end Machine
end Sys2Proof

/-! Family 41_push_family.md: PUSH, PIP and PSP. -/

namespace Sys2Proof
namespace Machine

/-- 41_push_family.md R93: after the opcode fetch `sp` is raised, then the value is taken and written at the new `sp`. -/
theorem atomically_pushValue_of_lt {s : State} (value : State → Word) (h : (s.sp + 1).toNat < 1024) :
    atomically s (pushValue value) = .next { s with
      ip := s.ip + 1, sp := s.sp + 1,
      stack := Memory.write s.stack (s.sp + 1).toNat (value { s with ip := s.ip + 1, sp := s.sp + 1 }) } := by
  refine atomically_of_ok ?_
  rw [advanceIp_eq]
  exact pushValue_of_lt value h

theorem atomically_pushValue_of_ge {s : State} (value : State → Word) (h : 1024 ≤ (s.sp + 1).toNat) :
    atomically s (pushValue value) = .next (takeFault .stackRange s) :=
  atomically_of_error (pushValue_of_ge value h)

/-- 41_push_family.md R90: with the immediate's index in range, PUSH pushes the immediate after a second advance of `ip`. -/
theorem exec_push_of_immediate_in_range {s : State} (v : Word) (h : (s.ip + 1).toNat < 1024) :
    exec (.push v) s = atomically s fun s1 => pushValue (fun _ => v) s1.advanceIp := by
  rw [← add16_eq] at h
  simp only [exec, execPush, atomically, fetchImmediate_of_lt (s := s.advanceIp) v h, bind, Except.bind]

/-- 41_push_family.md R90: the immediate's fetch faults before the push is tried, so `sp` does not matter. -/
theorem exec_push_of_immediate_out_of_range {s : State} (v : Word) (h : 1024 ≤ (s.ip + 1).toNat) :
    exec (.push v) s = .next (takeFault .programRange s) := by
  rw [← add16_eq] at h
  simp only [exec, execPush, atomically, fetchImmediate_of_ge (s := s.advanceIp) v h, bind, Except.bind]

/-- Settles O12, by PUSH's two checks in the order of 41_push_family.md R90: the immediate's index, then the raised `sp`. -/
theorem pushPushesItsImmediate : Obligations.PushPushesItsImmediate := by
  intro v
  refine ⟨decodeWith_cons_of_lookup_some (x := .push) (by decide) [v], fun s => ⟨?_, ?_, ?_⟩⟩
  · intro immediate_in_range sp_in_range
    have two_words : s.ip + 1 + 1 = s.ip + 2 := BitVec.add_assoc s.ip 1 1
    rw [exec_push_of_immediate_in_range v immediate_in_range]
    refine atomically_of_ok ?_
    rw [advanceIp_eq, advanceIp_eq, two_words]
    exact pushValue_of_lt _ sp_in_range
  · exact exec_push_of_immediate_out_of_range v
  · intro immediate_in_range full
    rw [exec_push_of_immediate_in_range v immediate_in_range]
    exact atomically_of_error (pushValue_of_ge _ full)

/-- Settles O13: both are the shared push, of the state's own `ip` or `sp` after the opcode fetch and the raise. -/
theorem pipAndPspPushThePointers : Obligations.PipAndPspPushThePointers := by
  refine ⟨decodeWith_cons_of_lookup_some (x := .pip) (by decide) [],
    decodeWith_cons_of_lookup_some (x := .psp) (by decide) [], fun s => ⟨fun in_range => ⟨?_, ?_⟩, fun full => ⟨?_, ?_⟩⟩⟩
  · exact atomically_pushValue_of_lt State.ip in_range
  · exact atomically_pushValue_of_lt State.sp in_range
  · exact atomically_pushValue_of_ge State.ip full
  · exact atomically_pushValue_of_ge State.sp full

end Machine
end Sys2Proof

/-! Family 42_arithmetic.md: the two-operand pop pattern and the in-place pattern, and the instructions that are one of them. -/

namespace Sys2Proof
namespace Machine

/-- 42_arithmetic.md R100 with `sp` in 1 to 1023: `f` of the top and the second replaces the second. -/
theorem atomically_popPair_of_le {s : State} (f : Word → Word → Word) (has_second : 1 ≤ s.sp.toNat)
    (top_in_range : s.sp.toNat ≤ 1023) :
    atomically s (popPair f) = .next (popPairResult s
      (f (Memory.read s.stack s.sp.toNat) (Memory.read s.stack (s.sp.toNat - 1)))) := by
  have second_index : (s.sp - 1).toNat = s.sp.toNat - 1 := BitVec.toNat_sub_of_le has_second
  have second_in_range : (s.sp - 1).toNat < 1024 := (pred_lt_iff s.sp).mpr ⟨has_second, by omega⟩
  refine atomically_of_ok ?_
  rw [advanceIp_eq, popPairResult, ← second_index]
  exact popPair_of_lt f (Nat.lt_succ_of_le top_in_range) second_in_range

/-- 42_arithmetic.md R100: the first read faults at `sp` 1024 and above, the second at `sp` 0. -/
theorem atomically_popPair_of_out_of_range {s : State} (f : Word → Word → Word)
    (out_of_range : s.sp.toNat = 0 ∨ 1024 ≤ s.sp.toNat) :
    atomically s (popPair f) = .next (takeFault .stackRange s) := by
  refine atomically_of_error (popPair_of_ge f ?_)
  rw [advanceIp_sp]
  rcases out_of_range with no_second | no_top
  · refine .inr (Nat.le_of_not_lt fun second_in_range => ?_)
    have has_second := ((pred_lt_iff s.sp).mp second_in_range).1
    omega
  · exact .inl no_top

theorem atomically_updateTop_of_le {s : State} (f : Word → Word) (top_in_range : s.sp.toNat ≤ 1023) :
    atomically s (updateTop f) = .next { s with
      ip := s.ip + 1, stack := Memory.write s.stack s.sp.toNat (f (Memory.read s.stack s.sp.toNat)) } := by
  refine atomically_of_ok ?_
  rw [advanceIp_eq]
  exact updateTop_of_lt f (Nat.lt_succ_of_le top_in_range)

theorem atomically_updateTop_of_ge {s : State} (f : Word → Word) (no_top : 1024 ≤ s.sp.toNat) :
    atomically s (updateTop f) = .next (takeFault .stackRange s) :=
  atomically_of_error (updateTop_of_ge f no_top)

theorem exec_add (s : State) : exec .add s = atomically s (popPair fun a b => a + b) := by
  simp only [exec, execAdd, add16_eq]

/-- 42_arithmetic.md R102: the minuend is the top, the operand pushed last. -/
theorem exec_sub (s : State) : exec .sub s = atomically s (popPair fun a b => a - b) := by
  simp only [exec, execSub, sub16_eq]

theorem exec_mul (s : State) : exec .mul s = atomically s (popPair fun a b => a * b) := by
  simp only [exec, execMul, mul16_eq]

theorem exec_inc (s : State) : exec .inc s = atomically s (updateTop fun t => t + 1) := by
  simp only [exec, execInc, add16_eq]

theorem exec_dec (s : State) : exec .dec s = atomically s (updateTop fun t => t - 1) := by
  simp only [exec, execDec, sub16_eq]

/-- Settles O14: each is the pop pattern of 42_arithmetic.md R100, with its own operation on the top and the second. -/
theorem addSubMulCombineTopAndSecond : Obligations.AddSubMulCombineTopAndSecond := by
  refine ⟨decodeWith_cons_of_lookup_some (x := .add) (by decide) [],
    decodeWith_cons_of_lookup_some (x := .sub) (by decide) [],
    decodeWith_cons_of_lookup_some (x := .mul) (by decide) [], ?_⟩
  rintro s _ _ rfl rfl
  rw [exec_add, exec_sub, exec_mul]
  refine ⟨fun has_second top_in_range => ⟨?_, ?_, ?_⟩, fun out_of_range => ⟨?_, ?_, ?_⟩⟩
  · exact atomically_popPair_of_le _ has_second top_in_range
  · exact atomically_popPair_of_le _ has_second top_in_range
  · exact atomically_popPair_of_le _ has_second top_in_range
  · exact atomically_popPair_of_out_of_range _ out_of_range
  · exact atomically_popPair_of_out_of_range _ out_of_range
  · exact atomically_popPair_of_out_of_range _ out_of_range

/-- Settles O16: both are the in-place pattern of 42_arithmetic.md R106 and R107. -/
theorem incAndDecChangeTheTop : Obligations.IncAndDecChangeTheTop := by
  refine ⟨decodeWith_cons_of_lookup_some (x := .inc) (by decide) [],
    decodeWith_cons_of_lookup_some (x := .dec) (by decide) [], fun s => ?_⟩
  rw [exec_inc, exec_dec]
  refine ⟨fun top_in_range => ⟨?_, ?_⟩, fun no_top => ⟨?_, ?_⟩⟩
  · exact atomically_updateTop_of_le _ top_in_range
  · exact atomically_updateTop_of_le _ top_in_range
  · exact atomically_updateTop_of_ge _ no_top
  · exact atomically_updateTop_of_ge _ no_top

end Machine
end Sys2Proof

/-! Family 43_pointer_adjust.md: IIP, DIP, ISP, DSP and SSP. -/

namespace Sys2Proof
namespace Machine

/-- 43_pointer_adjust.md R120: one advance is the opcode fetch's, the second skips the next word. -/
theorem exec_iip (s : State) : exec .iip s = .next { s with ip := s.ip + 2 } := by
  have two_words : s.ip + 1 + 1 = s.ip + 2 := BitVec.add_assoc s.ip 1 1
  rw [exec, execIip]
  refine atomically_of_ok ?_
  rw [advanceIp_eq, add16_eq, two_words, State.setIp]

/-- 43_pointer_adjust.md R121: lowering `ip` undoes the advance of the opcode fetch, modulo 65536. -/
theorem exec_dip (s : State) : exec .dip s = .next s := by
  have back_to_own_index : s.ip + 1 - 1 = s.ip := BitVec.add_sub_cancel s.ip 1
  rw [exec, execDip]
  refine atomically_of_ok ?_
  rw [advanceIp_eq, sub16_eq, back_to_own_index, State.setIp]

/-- Settles O17: from every state the body commits, so neither has a fault to take. -/
theorem iipAndDipMoveIp : Obligations.IipAndDipMoveIp :=
  ⟨decodeWith_cons_of_lookup_some (x := .iip) (by decide) [],
    decodeWith_cons_of_lookup_some (x := .dip) (by decide) [], fun s => ⟨exec_iip s, exec_dip s⟩⟩

theorem exec_isp (s : State) : exec .isp s = .next { s with ip := s.ip + 1, sp := s.sp + 1 } := by
  rw [exec, execIsp]
  refine atomically_of_ok ?_
  rw [advanceIp_eq, add16_eq, State.setSp]

theorem exec_dsp (s : State) : exec .dsp s = .next { s with ip := s.ip + 1, sp := s.sp - 1 } := by
  rw [exec, execDsp]
  refine atomically_of_ok ?_
  rw [advanceIp_eq, sub16_eq, State.setSp]

/-- Settles O18: with no stack access there is no check of `sp`, so no case split on its value. -/
theorem ispAndDspMoveSp : Obligations.IspAndDspMoveSp :=
  ⟨decodeWith_cons_of_lookup_some (x := .isp) (by decide) [],
    decodeWith_cons_of_lookup_some (x := .dsp) (by decide) [], fun s => ⟨exec_isp s, exec_dsp s⟩⟩

theorem readTop_of_le {s : State} (top_in_range : s.sp.toNat ≤ 1023) :
    readTop s = .ok (Memory.read s.stack s.sp.toNat) :=
  memRead_of_lt (Nat.lt_succ_of_le top_in_range)

theorem readTop_of_ge {s : State} (no_top : 1024 ≤ s.sp.toNat) : readTop s = .error .stackRange :=
  memRead_of_ge no_top

/-- An instruction whose one access is the read of the top: with `sp` at most 1023 it commits `update` of the cell read, on the
state after the opcode fetch. -/
theorem atomically_readTop_of_le {s : State} (update : Word → State → State) (top_in_range : s.sp.toNat ≤ 1023) :
    atomically s (fun s1 => do let v ← readTop s1; .ok (update v s1)) =
      .next (update (Memory.read s.stack s.sp.toNat) { s with ip := s.ip + 1 }) := by
  refine atomically_of_ok ?_
  rw [← advanceIp_eq]
  simp only [readTop_of_le (s := s.advanceIp) top_in_range, advanceIp_stack, advanceIp_sp, bind, Except.bind]

/-- An instruction that begins by reading the top: at `sp` 1024 and above it faults there, whatever it does next. -/
theorem atomically_readTop_of_ge {s : State} (body : Word → State → Except Fault State) (no_top : 1024 ≤ s.sp.toNat) :
    atomically s (fun s1 => do let v ← readTop s1; body v s1) = .next (takeFault .stackRange s) := by
  refine atomically_of_error ?_
  simp only [readTop_of_ge (s := s.advanceIp) no_top, bind, Except.bind]

/-- Settles O19, by 43_pointer_adjust.md R124's one check, on the read: no check follows on the `sp` it loads. -/
theorem sspLoadsSpFromTheTop : Obligations.SspLoadsSpFromTheTop := by
  refine ⟨decodeWith_cons_of_lookup_some (x := .ssp) (by decide) [], fun s => ⟨?_, ?_⟩⟩
  · exact atomically_readTop_of_le fun v t => t.setSp v
  · exact atomically_readTop_of_ge fun v t => .ok (t.setSp v)

end Machine
end Sys2Proof

/-! Family 44_control_transfer.md: CALL, RET, JNZ and JMP. -/

namespace Sys2Proof
namespace Machine

theorem secondIndex_toNat_of_pos {s : State} (has_second : 1 ≤ s.sp.toNat) :
    (secondIndex s).toNat = s.sp.toNat - 1 := by
  rw [secondIndex, sub16_eq]
  exact BitVec.toNat_sub_of_le has_second

theorem secondIndex_lt {s : State} (has_second : 1 ≤ s.sp.toNat) (top_in_range : s.sp.toNat ≤ 1023) :
    (secondIndex s).toNat < 1024 := by
  rw [secondIndex_toNat_of_pos has_second]
  omega

/-- At `sp` 0 the second index wraps to 65535. -/
theorem secondIndex_ge_of_zero {s : State} (no_second : s.sp.toNat = 0) : 1024 ≤ (secondIndex s).toNat := by
  have sp_zero : s.sp = 0 := BitVec.eq_of_toNat_eq no_second
  rw [secondIndex, sp_zero]
  decide

theorem readSecond_of_le {s : State} (has_second : 1 ≤ s.sp.toNat) (top_in_range : s.sp.toNat ≤ 1023) :
    memRead s (secondIndex s) = .ok (Memory.read s.stack (s.sp.toNat - 1)) := by
  rw [memRead_of_lt (secondIndex_lt has_second top_in_range), secondIndex_toNat_of_pos has_second]

/-- The reads that CALL, RET and JNZ have in common, of the top and then of the second, with what each does next. -/
def readTopAndSecond (continuation : Word → Word → State → Except Fault State) (s : State) : Except Fault State := do
  let top ← readTop s
  let second ← memRead s (secondIndex s)
  continuation top second s

/-- With `sp` in 1 to 1023 both reads succeed, and what the continuation answers for the two cells is committed. -/
theorem atomically_readTopAndSecond_of_le {s t : State} {continuation : Word → Word → State → Except Fault State}
    (has_second : 1 ≤ s.sp.toNat) (top_in_range : s.sp.toNat ≤ 1023)
    (answers : continuation (Memory.read s.stack s.sp.toNat) (Memory.read s.stack (s.sp.toNat - 1))
      { s with ip := s.ip + 1 } = .ok t) :
    atomically s (readTopAndSecond continuation) = .next t := by
  rw [← advanceIp_eq] at answers
  refine atomically_of_ok ?_
  simp only [readTopAndSecond, readTop_of_le (s := s.advanceIp) top_in_range,
    readSecond_of_le (s := s.advanceIp) has_second top_in_range, advanceIp_stack, advanceIp_sp, answers,
    bind, Except.bind]

/-- The first read faults at `sp` 1024 and above, the second at `sp` 0, whatever the continuation is. -/
theorem atomically_readTopAndSecond_of_out_of_range {s : State}
    (continuation : Word → Word → State → Except Fault State) (out_of_range : s.sp.toNat = 0 ∨ 1024 ≤ s.sp.toNat) :
    atomically s (readTopAndSecond continuation) = .next (takeFault .stackRange s) := by
  refine atomically_of_error ?_
  rcases out_of_range with no_second | no_top
  · have top_in_range : s.advanceIp.sp.toNat ≤ 1023 := by rw [advanceIp_sp]; omega
    have second_out_of_range : 1024 ≤ (secondIndex s.advanceIp).toNat := secondIndex_ge_of_zero no_second
    simp only [readTopAndSecond, readTop_of_le top_in_range, memRead_of_ge second_out_of_range, bind, Except.bind]
  · simp only [readTopAndSecond, readTop_of_ge (s := s.advanceIp) no_top, bind, Except.bind]

/-- 44_control_transfer.md R130 after the reads: the return address under the argument, then the jump. -/
def callAfterReads (target arg : Word) (s : State) : Except Fault State := do
  let s1 ← memWrite s (secondIndex s) s.ip
  let s2 ← memWrite s1 (topIndex s1) arg
  .ok (s2.setIp target)

/-- 44_control_transfer.md R131 after the reads: the return, and the result in the former second cell. -/
def retAfterReads (result address : Word) (s : State) : Except Fault State :=
  memWrite ((s.setSp (secondIndex s)).setIp address) (secondIndex s) result

/-- 44_control_transfer.md R132 after the reads: `sp` falls by one in both outcomes of the test, and no cell is written. -/
def jnzAfterReads (target check : Word) (s : State) : Except Fault State :=
  .ok (if isNonzero check then (s.setSp (secondIndex s)).setIp target else s.setSp (secondIndex s))

theorem exec_call (s : State) : exec .call s = atomically s (readTopAndSecond callAfterReads) := rfl

/-- RET lowers `sp` before its second read; the cell it reads is the second one all the same. -/
theorem exec_ret (s : State) : exec .ret s = atomically s (readTopAndSecond retAfterReads) := rfl

/-- JNZ, too, reads the second cell as the top under the lowered `sp`. -/
theorem exec_jnz (s : State) : exec .jnz s = atomically s (readTopAndSecond jnzAfterReads) := rfl

/-- CALL's writes use the indices that its reads have passed. -/
theorem callAfterReads_of_le {s : State} (target arg : Word) (has_second : 1 ≤ s.sp.toNat)
    (top_in_range : s.sp.toNat ≤ 1023) :
    callAfterReads target arg s = .ok { s with
      ip := target, stack := Memory.write (Memory.write s.stack (s.sp.toNat - 1) s.ip) s.sp.toNat arg } := by
  have top_lt : s.sp.toNat < 1024 := Nat.lt_succ_of_le top_in_range
  simp only [callAfterReads, memWrite_of_lt (secondIndex_lt has_second top_in_range),
    secondIndex_toNat_of_pos has_second, topIndex, setCell_sp, memWrite_of_lt top_lt, bind, Except.bind]
  rfl

theorem retAfterReads_of_le {s : State} (result address : Word) (has_second : 1 ≤ s.sp.toNat)
    (top_in_range : s.sp.toNat ≤ 1023) :
    retAfterReads result address s = .ok { s with
      ip := address, sp := s.sp - 1, stack := Memory.write s.stack (s.sp.toNat - 1) result } := by
  rw [retAfterReads, memWrite_of_lt (secondIndex_lt has_second top_in_range), secondIndex_toNat_of_pos has_second,
    secondIndex, sub16_eq]
  rfl

theorem jnzAfterReads_of_ne {check : Word} (target : Word) (s : State) (nonzero : check ≠ 0) :
    jnzAfterReads target check s = .ok { s with ip := target, sp := s.sp - 1 } := by
  rw [jnzAfterReads, if_pos ((isNonzero_iff check).mpr nonzero), secondIndex, sub16_eq, State.setSp, State.setIp]

theorem jnzAfterReads_of_eq_zero {check : Word} (target : Word) (s : State) (zero : check = 0) :
    jnzAfterReads target check s = .ok { s with sp := s.sp - 1 } := by
  rw [jnzAfterReads, if_neg (fun nonzero => (isNonzero_iff check).mp nonzero zero), secondIndex, sub16_eq, State.setSp]

/-- Settles O20, by CALL's two reads, which are all that can fault, and the two writes at the same indices. -/
theorem callSwapsInTheReturnAddress : Obligations.CallSwapsInTheReturnAddress := by
  refine ⟨decodeWith_cons_of_lookup_some (x := .call) (by decide) [], ?_⟩
  rintro s _ _ rfl rfl
  rw [exec_call]
  refine ⟨fun has_second top_in_range => ?_, atomically_readTopAndSecond_of_out_of_range _⟩
  exact atomically_readTopAndSecond_of_le has_second top_in_range (callAfterReads_of_le _ _ has_second top_in_range)

/-- Settles O21, by RET's two reads, which are all that can fault, and the write at the index of the second. -/
theorem retReturnsToTheSecondCell : Obligations.RetReturnsToTheSecondCell := by
  refine ⟨decodeWith_cons_of_lookup_some (x := .ret) (by decide) [], ?_⟩
  rintro s _ _ rfl rfl
  rw [exec_ret]
  refine ⟨fun has_second top_in_range => ?_, atomically_readTopAndSecond_of_out_of_range _⟩
  exact atomically_readTopAndSecond_of_le has_second top_in_range (retAfterReads_of_le _ _ has_second top_in_range)

/-- Settles O22, by JNZ's two reads and the two outcomes of its test, both of which lower `sp`. -/
theorem jnzJumpsIfTheSecondIsNonzero : Obligations.JnzJumpsIfTheSecondIsNonzero := by
  refine ⟨decodeWith_cons_of_lookup_some (x := .jnz) (by decide) [], ?_⟩
  rintro s _ _ rfl rfl
  rw [exec_jnz]
  refine ⟨fun has_second top_in_range nonzero => ?_, fun has_second top_in_range zero => ?_,
    atomically_readTopAndSecond_of_out_of_range _⟩
  · exact atomically_readTopAndSecond_of_le has_second top_in_range (jnzAfterReads_of_ne _ _ nonzero)
  · exact atomically_readTopAndSecond_of_le has_second top_in_range (jnzAfterReads_of_eq_zero _ _ zero)

/-- Settles O23, by 44_control_transfer.md R133's one access, the read of the top. -/
theorem jmpLoadsIpFromTheTop : Obligations.JmpLoadsIpFromTheTop := by
  refine ⟨decodeWith_cons_of_lookup_some (x := .jmp) (by decide) [], fun s => ⟨?_, ?_⟩⟩
  · exact atomically_readTop_of_le fun v t => t.setIp v
  · exact atomically_readTop_of_ge fun v t => .ok (t.setIp v)

end Machine
end Sys2Proof

/-! Family 45_halt_and_nop.md: the no-op under the default `OPMAP`. -/

namespace Sys2Proof
namespace Machine

/-- 30_encoding.md R53: the default numbers lie in 0x0001 to 0x0014. -/
theorem defaultOpMap_toNat_bounds (x : Mnemonic) : 1 ≤ (defaultOpMap x).toNat ∧ (defaultOpMap x).toNat ≤ 0x0014 := by
  cases x <;> decide

/-- 0x0000 lies below the default numbers and 0x0015 to 0xFFFF above them, so no mnemonic has such a word. -/
theorem defaultOpMap_ne_of_outside {w : Word} (outside : w = 0 ∨ 0x0015 ≤ w.toNat) (x : Mnemonic) :
    defaultOpMap x ≠ w := by
  rintro rfl
  obtain ⟨above_zero, up_to_halt⟩ := defaultOpMap_toNat_bounds x
  rcases outside with zero | above_halt
  · rw [zero] at above_zero
    exact absurd above_zero (by decide)
  · omega

/-- Settles O25, by the range of the default numbers, which leaves these words to the no-op, and the no-op's one next state. -/
theorem nopOnlyMovesPastItsWord : Obligations.NopOnlyMovesPastItsWord := by
  intro w
  refine ⟨fun outside rest => ?_, exec_nop w⟩
  exact decodeWith_cons_of_lookup_none (lookup_none.mpr (defaultOpMap_ne_of_outside outside)) rest

end Machine
end Sys2Proof

/-! Family other: the decoder and the encoder, mnemonic by mnemonic, and the fetch of an instruction. -/

namespace Sys2Proof

/-- The mnemonic an instruction is written with; a no-op has none (30_encoding.md R53, R54). -/
def Instr.mnemonic? : Instr → Option Mnemonic
  | .push _ => some .push
  | .pip => some .pip
  | .psp => some .psp
  | .add => some .add
  | .sub => some .sub
  | .mul => some .mul
  | .lsf => some .lsf
  | .rsf => some .rsf
  | .inc => some .inc
  | .dec => some .dec
  | .iip => some .iip
  | .dip => some .dip
  | .isp => some .isp
  | .dsp => some .dsp
  | .call => some .call
  | .ret => some .ret
  | .jnz => some .jnz
  | .ssp => some .ssp
  | .jmp => some .jmp
  | .halt => some .halt
  | .nop _ => none

/-- The words after the opcode word: PUSH's immediate (30_encoding.md R52). -/
def Instr.operands : Instr → List Word
  | .push imm => [imm]
  | _ => []

theorem encodeWith_of_mnemonic {i : Instr} {x : Mnemonic} (named : i.mnemonic? = some x) (m : OpMap) :
    encodeWith m i = m x :: i.operands := by
  cases i <;> cases named <;> rfl

theorem decodeOperands_of_mnemonic {i : Instr} {x : Mnemonic} (named : i.mnemonic? = some x) (rest : List Word) :
    decodeOperands x (i.operands ++ rest) = .ok (i, rest) := by
  cases i <;> cases named <;> rfl

theorem wellFormed_of_mnemonic {i : Instr} {x : Mnemonic} (named : i.mnemonic? = some x) (m : OpMap) :
    i.wellFormed m = true := by
  cases i <;> cases named <;> rfl

theorem exists_nop_of_no_mnemonic {i : Instr} (unnamed : i.mnemonic? = none) : ∃ w, i = .nop w := by
  cases i <;> cases unnamed
  exact ⟨_, rfl⟩

/-- What `decodeOperands` takes is the instruction's own operands, and it answers an instruction of its mnemonic. -/
theorem of_decodeOperands_ok {x : Mnemonic} {ws rest : List Word} {i : Instr}
    (decodes : decodeOperands x ws = .ok (i, rest)) : i.mnemonic? = some x ∧ ws = i.operands ++ rest := by
  cases x
  case push =>
    cases ws with
    | nil => cases decodes
    | cons imm ws => cases decodes; exact ⟨rfl, rfl⟩
  all_goals cases decodes; exact ⟨rfl, rfl⟩

/-- 30_encoding.md R55: only PUSH needs a word after its opcode. -/
theorem decodeOperands_nil_error_iff {x : Mnemonic} {e : DecodeError} :
    decodeOperands x [] = .error e ↔ x = .push ∧ e = .noImmediate := by
  cases x <;> simp [decodeOperands, eq_comm]

namespace Machine

/-- Settles O3: the look-up finds an instruction's own mnemonic, whose operands follow; a well-formed no-op's word has none. -/
theorem decodeOfEncodeIsTheInstruction : Obligations.DecodeOfEncodeIsTheInstruction := by
  intro m admissible i wellFormed rest
  cases named : i.mnemonic? with
  | none =>
    obtain ⟨w, rfl⟩ := exists_nop_of_no_mnemonic named
    exact decodeWith_cons_of_lookup_none (Option.isNone_iff_eq_none.mp wellFormed) rest
  | some x =>
    rw [encodeWith_of_mnemonic named, List.cons_append, decodeWith_cons_of_lookup_some (lookup_value admissible x)]
    exact decodeOperands_of_mnemonic named rest

/-- Settles O4: the first word is the value of the mnemonic that the look-up finds, or an unassigned one. -/
theorem encodeOfDecodeIsTheWords : Obligations.EncodeOfDecodeIsTheWords := by
  intro m ws rest i decodes
  cases ws with
  | nil => cases decodes
  | cons w ws =>
    cases found : m.lookup w with
    | none =>
      rw [decodeWith_cons_of_lookup_none found] at decodes
      cases decodes
      exact ⟨rfl, Option.isNone_iff_eq_none.mpr found⟩
    | some x =>
      rw [decodeWith_cons_of_lookup_some found] at decodes
      obtain ⟨named, rfl⟩ := of_decodeOperands_ok decodes
      rw [encodeWith_of_mnemonic named, lookup_some found]
      exact ⟨rfl, wellFormed_of_mnemonic named m⟩

/-- Settles O5, by the number of words: two always decode, one fails only as PUSH's opcode. -/
theorem decodeFailsOnlyForWantOfAWord : Obligations.DecodeFailsOnlyForWantOfAWord := by
  intro m admissible ws e
  match ws with
  | [] => simp [decodeWith, eq_comm]
  | w :: v :: ws =>
    obtain ⟨i, rest, decodes⟩ := decodeWith_cons_cons_ok m w v ws
    simp [decodes]
  | [w] =>
    cases found : m.lookup w with
    | none =>
      have unassigned := lookup_none.mp found
      simp [decodeWith_cons_of_lookup_none found, (unassigned .push).symm]
    | some x =>
      have same_word : x = .push ↔ w = m .push := by
        rw [← lookup_some found]
        exact ⟨congrArg m, admissible.1 x .push⟩
      simp [decodeWith_cons_of_lookup_some found, decodeOperands_nil_error_iff, same_word]

/-! ### The default numbers -/

theorem lookup_defaultOpMap (x : Mnemonic) : defaultOpMap.lookup (defaultOpMap x) = some x := by
  cases x <;> rfl

/-- Settles O1: a mnemonic is found again from its number, so the numbers are distinct; 0x0000 lies outside their range. -/
theorem defaultOpMapIsAdmissible : Obligations.DefaultOpMapIsAdmissible := by
  refine ⟨fun x y same => Option.some.inj ?_, defaultOpMap_ne_of_outside (.inl rfl)⟩
  rw [← lookup_defaultOpMap x, ← lookup_defaultOpMap y, same]

theorem decode_defaultOpMap_cons (x : Mnemonic) (ws : List Word) :
    decode (defaultOpMap x :: ws) = decodeOperands x ws :=
  decodeWith_cons_of_lookup_some (lookup_defaultOpMap x) ws

/-- Settles O2, by the mnemonic of each assigned word, and by the range of the assigned words for the rest. -/
theorem tableWordsDecode : Obligations.TableWordsDecode :=
  ⟨decode_defaultOpMap_cons .push [0xFFFF], decode_defaultOpMap_cons .pip [], decode_defaultOpMap_cons .psp [],
    decode_defaultOpMap_cons .add [], decode_defaultOpMap_cons .sub [], decode_defaultOpMap_cons .mul [],
    decode_defaultOpMap_cons .lsf [], decode_defaultOpMap_cons .rsf [], decode_defaultOpMap_cons .inc [],
    decode_defaultOpMap_cons .dec [], decode_defaultOpMap_cons .iip [], decode_defaultOpMap_cons .dip [],
    decode_defaultOpMap_cons .isp [], decode_defaultOpMap_cons .dsp [], decode_defaultOpMap_cons .call [],
    decode_defaultOpMap_cons .ret [], decode_defaultOpMap_cons .jnz [], decode_defaultOpMap_cons .ssp [],
    decode_defaultOpMap_cons .jmp [], decode_defaultOpMap_cons .halt [],
    (nopOnlyMovesPastItsWord 0x0000).1 (.inl rfl) [], (nopOnlyMovesPastItsWord 0x0015).1 (.inr (by decide)) [],
    (nopOnlyMovesPastItsWord 0xFFFF).1 (.inr (by decide)) []⟩

/-! ### Fetching an instruction -/

theorem fetchInstr_of_decode_ok {m : OpMap} {s : State} {i : Instr} {rest : List Word}
    (decodes : decodeWith m (wordsAt s) = .ok (i, rest)) : fetchInstr m s = .ok i := by
  simp only [fetchInstr, decodes]

/-- Every failure of the decoder is a fetch out of range (30_encoding.md R57). -/
theorem fetchInstr_of_decode_error {m : OpMap} {s : State} {e : DecodeError}
    (fails : decodeWith m (wordsAt s) = .error e) : fetchInstr m s = .error .programRange := by
  cases e <;> simp only [fetchInstr, fails]

theorem fetchInstr_error_iff {m : OpMap} {s : State} {f : Fault} :
    fetchInstr m s = .error f ↔ f = .programRange ∧ ∃ e, decodeWith m (wordsAt s) = .error e := by
  cases decodes : decodeWith m (wordsAt s) with
  | ok p => simp [fetchInstr_of_decode_ok (rest := p.2) decodes]
  | error e => simp [fetchInstr_of_decode_error decodes, eq_comm]

theorem wordsAt_eq_nil_iff {s : State} : wordsAt s = [] ↔ 1024 ≤ s.ip.toNat := by
  rw [wordsAt_eq]
  split_ifs with out_of_range last_cell
  · simp [out_of_range]
  · simp [out_of_range]
  · simp [out_of_range]

theorem wordsAt_eq_singleton_iff {s : State} {w : Word} :
    wordsAt s = [w] ↔ s.ip.toNat = 1023 ∧ Memory.read s.program 1023 = w := by
  rw [wordsAt_eq]
  split_ifs with out_of_range last_cell
  · have not_last : s.ip.toNat ≠ 1023 := by omega
    simp [not_last]
  · simp [last_cell]
  · simp [last_cell]

/-- The words at `ip` are the program cells from `ip` on, two at most. -/
theorem wordsAt_getElem? {s : State} {k : Nat} (k_lt_two : k < 2) (in_range : s.ip.toNat + k < 1024) :
    (wordsAt s)[k]? = some (Memory.read s.program (s.ip.toNat + k)) := by
  rw [wordsAt_eq, if_neg (by omega)]
  split_ifs with last_cell
  · obtain rfl : k = 0 := by omega
    simp [last_cell]
  · interval_cases k <;> rfl

/-- Settles O10: the words at `ip` are all that the fetch hands to the decoder. -/
theorem fetchSeesOnlyProgramAndIp : Obligations.FetchSeesOnlyProgramAndIp := by
  intro m s t same_program same_ip
  have same_words : wordsAt s = wordsAt t := by rw [wordsAt_eq, wordsAt_eq, same_program, same_ip]
  rw [fetchInstr, fetchInstr, same_words]

/-- Settles O11, by the two ways in which the decoder fails for want of a word at `ip`. -/
theorem instructionFetchFaultsOutOfRangeOnly : Obligations.InstructionFetchFaultsOutOfRangeOnly := by
  intro m admissible s f
  simp only [fetchInstr_error_iff, decodeFailsOnlyForWantOfAWord m admissible, wordsAt_eq_nil_iff,
    wordsAt_eq_singleton_iff, exists_or, exists_and_left, exists_eq, and_true]

/-- Settles O9, by the two sides of the test on `ip` before the advance. -/
theorem fetchReadsAtIpAndAdvances : Obligations.FetchReadsAtIpAndAdvances := by
  intro s
  rw [← advanceIp_eq]
  exact ⟨fetch_of_ge, fetch_of_lt⟩

end Machine

namespace Laws.EncodingShape

/-- The laws of the single instructions, as one. -/
theorem all : ∀ i : Instr, Statement i
  | .push imm => push imm
  | .pip => pip
  | .psp => psp
  | .add => add
  | .sub => sub
  | .mul => mul
  | .lsf => lsf
  | .rsf => rsf
  | .inc => inc
  | .dec => dec
  | .iip => iip
  | .dip => dip
  | .isp => isp
  | .dsp => dsp
  | .call => call
  | .ret => ret
  | .jnz => jnz
  | .ssp => ssp
  | .jmp => jmp
  | .halt => halt
  | .nop opcode => nop opcode

end Laws.EncodingShape

namespace Machine

/-! ### One step from IDLE or RUNNING -/

theorem beginStep_eq (s : State) : s.beginStep = { s with status := .running, outValid := false } := rfl

theorem stepWith_of_canStep {s : State} (m : OpMap) (can_step : CanStep s) :
    stepWith m s = runInstr m s.beginStep := by
  rcases can_step with idle | running
  · simp only [stepWith, idle]
  · simp only [stepWith, running]

theorem stepWith_of_hasEnded {s : State} (m : OpMap) (has_ended : HasEnded s) : stepWith m s = .next s.lowerStrobe := by
  rcases has_ended with halted | faulted
  · simp only [stepWith, halted]
  · simp only [stepWith, faulted]

theorem stepWith_of_fetch_ok {m : OpMap} {s : State} {i : Instr} (can_step : CanStep s)
    (fetched : fetchInstr m s = .ok i) : stepWith m s = exec i s.beginStep := by
  simp only [stepWith_of_canStep m can_step, runInstr, fetchInstr_beginStep, fetched]

theorem stepWith_of_fetch_error {m : OpMap} {s : State} {f : Fault} (can_step : CanStep s)
    (faults : fetchInstr m s = .error f) : stepWith m s = .next (takeFault f s.beginStep) := by
  simp only [stepWith_of_canStep m can_step, runInstr, fetchInstr_beginStep, faults]

theorem canStep_or_hasEnded (s : State) : CanStep s ∨ HasEnded s := by
  rcases s with ⟨_, _, _, _, status, _, _, _, _⟩
  cases status <;> simp [CanStep, HasEnded]

/-- Settles O36: the words at `ip` are what the step fetches. -/
theorem stepRunsTheDecodedInstruction : Obligations.StepRunsTheDecodedInstruction := by
  intro s i rest can_step decodes
  exact stepWith_of_fetch_ok can_step (fetchInstr_of_decode_ok decodes)

/-- Program cells that hold an encoding from `ip` on begin the words at `ip`. -/
theorem encodeWith_isPrefix_wordsAt {m : OpMap} {s : State} {i : Instr} (fits : s.ip.toNat + i.length ≤ 1024)
    (holds : ∀ k, k < i.length → (encodeWith m i)[k]? = some (Memory.read s.program (s.ip.toNat + k))) :
    encodeWith m i <+: wordsAt s := by
  obtain ⟨length_eq, -, at_most_two⟩ := Laws.EncodingShape.all i m
  refine List.prefix_iff_getElem?.mpr fun k k_lt => ?_
  rw [length_eq] at k_lt
  rw [wordsAt_getElem? (by omega) (by omega), ← holds k k_lt, List.getElem?_eq_getElem]

/-- Settles O37: the encoding begins the words at `ip`, so decoding them gives the instruction back. -/
theorem stepRunsTheEncodedInstruction : Obligations.StepRunsTheEncodedInstruction := by
  intro m admissible s i can_step wellFormed fits holds
  obtain ⟨rest, words⟩ := encodeWith_isPrefix_wordsAt fits holds
  have decodes := decodeOfEncodeIsTheInstruction m admissible i wellFormed rest
  rw [words] at decodes
  exact stepWith_of_fetch_ok can_step (fetchInstr_of_decode_ok decodes)

/-- Settles O34: no word is left at `ip`, so the fetch faults before any instruction can read `sp`. -/
theorem outOfRangeIpFaultsFirst : Obligations.OutOfRangeIpFaultsFirst := by
  intro m s can_step out_of_range
  have no_opcode : decodeWith m (wordsAt s) = .error .noOpcode := by rw [wordsAt_eq_nil_iff.mpr out_of_range]; rfl
  exact ⟨_, stepWith_of_fetch_error can_step (fetchInstr_of_decode_error no_opcode), rfl, rfl, rfl⟩

end Machine
end Sys2Proof

/-! Family other: all that one instruction can do, said once: take a fault where an access is out of range, halt, or commit stores that the
table of stack accesses lists. The frames and the statements about a whole step follow from it. -/

namespace Sys2Proof

/-- Whether an instruction can end with another `sp`. -/
def Instr.movesSp : Instr → Bool
  | .inc | .dec | .iip | .dip | .call | .jmp | .halt | .nop _ => false
  | _ => true

namespace Machine

/-! ### Stores to listed cells -/

/-- The stack `new` differs from `old` only in cells that the accesses write (20_memory.md R38), and keeps the canonical form. -/
structure StoresOnlyIn (accesses : List StackAccess) (old new : Memory) : Prop where
  other_cells : ∀ a, (∀ w, .write w ∈ accesses → a ≠ w.toNat) → Memory.read new a = Memory.read old a
  wf : Memory.wf 1024 old = true → Memory.wf 1024 new = true

theorem StoresOnlyIn.refl (accesses : List StackAccess) (mem : Memory) : StoresOnlyIn accesses mem mem :=
  ⟨fun _ _ => rfl, id⟩

theorem StoresOnlyIn.write {accesses : List StackAccess} {old new : Memory} {w : Word} {a : Nat} (v : Word)
    (stores : StoresOnlyIn accesses old new) (listed : .write w ∈ accesses) (index : w.toNat = a) (in_range : a < 1024) :
    StoresOnlyIn accesses old (Memory.write new a v) where
  other_cells c unlisted := by
    rw [read_write_other _ _ _ _ (index ▸ unlisted w listed), stores.other_cells c unlisted]
  wf canonical := wf_write v in_range (stores.wf canonical)

/-! ### The accesses of an instruction that are out of range -/

/-- A stack access of the table, or the fetch of PUSH's immediate, is at 1024 or more (60_exceptions.md R166). -/
def AccessOutOfRange (i : Instr) (s : State) : Prop :=
  accessesInRange s.sp i = false ∨ ((∃ v, i = .push v) ∧ 1024 ≤ (s.ip + 1).toNat)

theorem accessesInRange_eq_false_iff {sp : Word} {i : Instr} :
    accessesInRange sp i = false ↔ ∃ a ∈ (stackAccesses sp i).map StackAccess.index, 1024 ≤ a.toNat := by
  simp [accessesInRange]

theorem accessOutOfRange_push_iff {s : State} {v : Word} :
    AccessOutOfRange (.push v) s ↔ 1024 ≤ (s.ip + 1).toNat ∨ 1024 ≤ (s.sp + 1).toNat := by
  simp [AccessOutOfRange, accessesInRange_eq_false_iff, stackAccesses, StackAccess.index, or_comm]

section
variable {i : Instr} {s : State}

theorem accessOutOfRange_iff (no_immediate : ∀ v, i ≠ .push v) :
    AccessOutOfRange i s ↔ ∃ a ∈ (stackAccesses s.sp i).map StackAccess.index, 1024 ≤ a.toNat := by
  simp [AccessOutOfRange, accessesInRange_eq_false_iff, no_immediate]

/-- Every access is of the one cell `a`. -/
theorem accessOutOfRange_iff_of_one {a : Word} (no_immediate : ∀ v, i ≠ .push v)
    (indices : ∀ b, b ∈ (stackAccesses s.sp i).map StackAccess.index ↔ b = a) :
    AccessOutOfRange i s ↔ 1024 ≤ a.toNat := by
  simp only [accessOutOfRange_iff no_immediate, indices, exists_eq_left]

/-- The accesses are of the top and of the second. -/
theorem accessOutOfRange_iff_of_pair (no_immediate : ∀ v, i ≠ .push v)
    (indices : ∀ b, b ∈ (stackAccesses s.sp i).map StackAccess.index ↔ b = s.sp ∨ b = s.sp - 1) :
    AccessOutOfRange i s ↔ s.sp.toNat = 0 ∨ 1024 ≤ s.sp.toNat := by
  simp only [accessOutOfRange_iff no_immediate, indices, or_and_right, exists_or, exists_eq_left]
  bv_omega

theorem not_accessOutOfRange_of_none (no_immediate : ∀ v, i ≠ .push v) (none_listed : stackAccesses s.sp i = []) :
    ¬ AccessOutOfRange i s := by
  simp [accessOutOfRange_iff no_immediate, none_listed]

end

/-! ### The outcome of an instruction -/

/-- An instruction other than HALT ran to its end: `ip`, `sp` and listed stack cells are all that may have changed. -/
structure Commits (i : Instr) (s t : State) : Prop where
  not_halt : i ≠ .halt
  registers : t = { s with ip := t.ip, sp := t.sp, stack := t.stack }
  sp_kept : i.movesSp = false → t.sp = s.sp
  stack : StoresOnlyIn (stackAccesses s.sp i) s.stack t.stack

/-- The states that an instruction can answer from `s`. -/
inductive ExecOutcome (i : Instr) (s : State) : State → Prop where
  | fault (f : Fault) (out_of_range : AccessOutOfRange i s) : ExecOutcome i s (takeFault f s)
  | halt (is_halt : i = .halt) (top_in_range : s.sp.toNat ≤ 1023) :
      ExecOutcome i s (haltWith (Memory.read s.stack s.sp.toNat) { s with ip := s.ip + 1 })
  | commit {t : State} (in_range : ¬ AccessOutOfRange i s) (commits : Commits i s t) : ExecOutcome i s t

/-- The instruction answers one of its outcomes. -/
def HasOutcome (i : Instr) (s : State) : Prop :=
  ∃ t, exec i s = .next t ∧ ExecOutcome i s t

section
variable {i : Instr} {s : State}

theorem hasOutcome_of_fault {f : Fault} (out_of_range : AccessOutOfRange i s) (runs : exec i s = .next (takeFault f s)) :
    HasOutcome i s :=
  ⟨_, runs, .fault f out_of_range⟩

theorem hasOutcome_of_commit {t : State} (in_range : ¬ AccessOutOfRange i s) (runs : exec i s = .next t)
    (commits : Commits i s t) : HasOutcome i s :=
  ⟨t, runs, .commit in_range commits⟩

/-! One lemma per operand pattern. -/

/-- An instruction without stack access runs to its end. -/
theorem hasOutcome_of_no_access {t : State} (no_immediate : ∀ v, i ≠ .push v) (none_listed : stackAccesses s.sp i = [])
    (runs : exec i s = .next t) (commits : Commits i s t) : HasOutcome i s :=
  hasOutcome_of_commit (not_accessOutOfRange_of_none no_immediate none_listed) runs commits

/-- A push's one access is the store above the old top. -/
theorem hasOutcome_of_pushValue {value : State → Word} (runs : exec i s = atomically s (pushValue value))
    (not_halt : i ≠ .halt) (no_immediate : ∀ v, i ≠ .push v) (moves_sp : i.movesSp = true)
    (accesses : stackAccesses s.sp i = [.write (s.sp + 1)]) : HasOutcome i s := by
  have range : AccessOutOfRange i s ↔ 1024 ≤ (s.sp + 1).toNat :=
    accessOutOfRange_iff_of_one no_immediate (by simp [accesses, StackAccess.index])
  by_cases full : 1024 ≤ (s.sp + 1).toNat
  · exact hasOutcome_of_fault (range.mpr full) (runs.trans (atomically_pushValue_of_ge value full))
  · have in_range : (s.sp + 1).toNat < 1024 := Nat.lt_of_not_le full
    refine hasOutcome_of_commit (mt range.mp full) (runs.trans (atomically_pushValue_of_lt value in_range))
      ⟨not_halt, rfl, by simp [moves_sp], ?_⟩
    exact (StoresOnlyIn.refl _ _).write _ (by simp [accesses]) rfl in_range

/-- An access of the top only: the read faults at `sp` 1024 and above, and nothing else faults. -/
theorem hasOutcome_of_top (no_immediate : ∀ v, i ≠ .push v)
    (indices : ∀ b, b ∈ (stackAccesses s.sp i).map StackAccess.index ↔ b = s.sp)
    (faults : 1024 ≤ s.sp.toNat → exec i s = .next (takeFault .stackRange s))
    (commits : s.sp.toNat ≤ 1023 → ∃ t, exec i s = .next t ∧ Commits i s t) : HasOutcome i s := by
  have range : AccessOutOfRange i s ↔ 1024 ≤ s.sp.toNat := accessOutOfRange_iff_of_one no_immediate indices
  by_cases no_top : 1024 ≤ s.sp.toNat
  · exact hasOutcome_of_fault (range.mpr no_top) (faults no_top)
  · obtain ⟨t, runs, committed⟩ := commits (by omega)
    exact hasOutcome_of_commit (mt range.mp no_top) runs committed

theorem hasOutcome_of_updateTop {f : Word → Word} (runs : exec i s = atomically s (updateTop f))
    (not_halt : i ≠ .halt) (no_immediate : ∀ v, i ≠ .push v)
    (accesses : stackAccesses s.sp i = [.read s.sp, .write s.sp]) : HasOutcome i s := by
  refine hasOutcome_of_top no_immediate (by simp [accesses, StackAccess.index])
    (fun no_top => runs.trans (atomically_updateTop_of_ge f no_top))
    (fun top_in_range => ⟨_, runs.trans (atomically_updateTop_of_le f top_in_range), not_halt, rfl, fun _ => rfl, ?_⟩)
  exact (StoresOnlyIn.refl _ _).write _ (by simp [accesses]) rfl (Nat.lt_succ_of_le top_in_range)

/-- Accesses of the top and of the second: the reads fault at `sp` 0 and at 1024 and above, and nothing else faults. -/
theorem hasOutcome_of_pair (no_immediate : ∀ v, i ≠ .push v)
    (indices : ∀ b, b ∈ (stackAccesses s.sp i).map StackAccess.index ↔ b = s.sp ∨ b = s.sp - 1)
    (faults : s.sp.toNat = 0 ∨ 1024 ≤ s.sp.toNat → exec i s = .next (takeFault .stackRange s))
    (commits : 1 ≤ s.sp.toNat → s.sp.toNat ≤ 1023 → ∃ t, exec i s = .next t ∧ Commits i s t) : HasOutcome i s := by
  have range : AccessOutOfRange i s ↔ s.sp.toNat = 0 ∨ 1024 ≤ s.sp.toNat :=
    accessOutOfRange_iff_of_pair no_immediate indices
  by_cases out_of_range : s.sp.toNat = 0 ∨ 1024 ≤ s.sp.toNat
  · exact hasOutcome_of_fault (range.mpr out_of_range) (faults out_of_range)
  · obtain ⟨t, runs, committed⟩ := commits (by omega) (by omega)
    exact hasOutcome_of_commit (mt range.mp out_of_range) runs committed

/-- The store of the instructions that pop two cells and push one. -/
theorem storesOnlyIn_write_second {accesses : List StackAccess} (v : Word) (listed : .write (s.sp - 1) ∈ accesses)
    (has_second : 1 ≤ s.sp.toNat) (top_in_range : s.sp.toNat ≤ 1023) :
    StoresOnlyIn accesses s.stack (Memory.write s.stack (s.sp.toNat - 1) v) :=
  (StoresOnlyIn.refl _ _).write v listed (BitVec.toNat_sub_of_le has_second) (by omega)

theorem hasOutcome_of_popPair {f : Word → Word → Word} (runs : exec i s = atomically s (popPair f))
    (not_halt : i ≠ .halt) (no_immediate : ∀ v, i ≠ .push v) (moves_sp : i.movesSp = true)
    (accesses : stackAccesses s.sp i = [.read s.sp, .read (s.sp - 1), .write (s.sp - 1)]) : HasOutcome i s := by
  refine hasOutcome_of_pair no_immediate (by simp [accesses, StackAccess.index])
    (fun out_of_range => runs.trans (atomically_popPair_of_out_of_range f out_of_range))
    (fun has_second top_in_range =>
      ⟨_, runs.trans (atomically_popPair_of_le f has_second top_in_range), not_halt, rfl, by simp [moves_sp], ?_⟩)
  exact storesOnlyIn_write_second _ (by simp [accesses]) has_second top_in_range

end

/-! One lemma per instruction that is no such pattern. -/

theorem hasOutcome_push (v : Word) (s : State) : HasOutcome (.push v) s := by
  obtain ⟨-, of_push⟩ := pushPushesItsImmediate v
  obtain ⟨commits, no_immediate, full⟩ := of_push s
  by_cases ip_out : 1024 ≤ (s.ip + 1).toNat
  · exact hasOutcome_of_fault (accessOutOfRange_push_iff.mpr (.inl ip_out)) (no_immediate ip_out)
  · have ip_in : (s.ip + 1).toNat < 1024 := Nat.lt_of_not_le ip_out
    by_cases sp_out : 1024 ≤ (s.sp + 1).toNat
    · exact hasOutcome_of_fault (accessOutOfRange_push_iff.mpr (.inr sp_out)) (full ip_in sp_out)
    · have sp_in : (s.sp + 1).toNat < 1024 := Nat.lt_of_not_le sp_out
      refine hasOutcome_of_commit (fun out => (accessOutOfRange_push_iff.mp out).elim ip_out sp_out) (commits ip_in sp_in)
        ⟨nofun, rfl, nofun, ?_⟩
      exact (StoresOnlyIn.refl _ _).write v (by simp [stackAccesses]) rfl sp_in

theorem hasOutcome_ssp (s : State) : HasOutcome .ssp s := by
  obtain ⟨commits, faults⟩ := sspLoadsSpFromTheTop.2 s
  exact hasOutcome_of_top nofun (by simp [stackAccesses, StackAccess.index]) faults
    fun top_in_range => ⟨_, commits top_in_range, nofun, rfl, nofun, .refl _ _⟩

theorem hasOutcome_jmp (s : State) : HasOutcome .jmp s := by
  obtain ⟨commits, faults⟩ := jmpLoadsIpFromTheTop.2 s
  exact hasOutcome_of_top nofun (by simp [stackAccesses, StackAccess.index]) faults
    fun top_in_range => ⟨_, commits top_in_range, nofun, rfl, fun _ => rfl, .refl _ _⟩

theorem hasOutcome_call (s : State) : HasOutcome .call s := by
  obtain ⟨commits, faults⟩ := callSwapsInTheReturnAddress.2 s _ _ rfl rfl
  refine hasOutcome_of_pair nofun (by grind [stackAccesses, StackAccess.index]) faults
    fun has_second top_in_range => ⟨_, commits has_second top_in_range, nofun, rfl, fun _ => rfl, ?_⟩
  have second_stored := storesOnlyIn_write_second (accesses := stackAccesses s.sp .call) (s.ip + 1)
    (by simp [stackAccesses]) has_second top_in_range
  exact second_stored.write _ (w := s.sp) (by simp [stackAccesses]) rfl (Nat.lt_succ_of_le top_in_range)

theorem hasOutcome_ret (s : State) : HasOutcome .ret s := by
  obtain ⟨commits, faults⟩ := retReturnsToTheSecondCell.2 s _ _ rfl rfl
  refine hasOutcome_of_pair nofun (by simp [stackAccesses, StackAccess.index]) faults
    fun has_second top_in_range => ⟨_, commits has_second top_in_range, nofun, rfl, nofun, ?_⟩
  exact storesOnlyIn_write_second _ (by simp [stackAccesses]) has_second top_in_range

theorem hasOutcome_jnz (s : State) : HasOutcome .jnz s := by
  obtain ⟨taken, not_taken, faults⟩ := jnzJumpsIfTheSecondIsNonzero.2 s _ _ rfl rfl
  refine hasOutcome_of_pair nofun (by simp [stackAccesses, StackAccess.index]) faults
    fun has_second top_in_range => ?_
  by_cases zero : Memory.read s.stack (s.sp.toNat - 1) = 0
  · exact ⟨_, not_taken has_second top_in_range zero, nofun, rfl, nofun, .refl _ _⟩
  · exact ⟨_, taken has_second top_in_range zero, nofun, rfl, nofun, .refl _ _⟩

theorem exec_halt_of_le {s : State} (top_in_range : s.sp.toNat ≤ 1023) :
    exec .halt s = .next (haltWith (Memory.read s.stack s.sp.toNat) { s with ip := s.ip + 1 }) :=
  atomically_readTop_of_le haltWith top_in_range

theorem exec_halt_of_ge {s : State} (no_top : 1024 ≤ s.sp.toNat) : exec .halt s = .next (takeFault .stackRange s) :=
  atomically_readTop_of_ge (fun v t => .ok (haltWith v t)) no_top

theorem accessOutOfRange_halt_iff {s : State} : AccessOutOfRange .halt s ↔ 1024 ≤ s.sp.toNat :=
  accessOutOfRange_iff_of_one nofun (by simp [stackAccesses, StackAccess.index])

theorem hasOutcome_halt (s : State) : HasOutcome .halt s := by
  by_cases no_top : 1024 ≤ s.sp.toNat
  · exact hasOutcome_of_fault (accessOutOfRange_halt_iff.mpr no_top) (exec_halt_of_ge no_top)
  · have top_in_range : s.sp.toNat ≤ 1023 := by omega
    exact ⟨_, exec_halt_of_le top_in_range, .halt rfl top_in_range⟩

/-- All that an instruction can do. -/
theorem exec_hasOutcome (i : Instr) (s : State) : HasOutcome i s := by
  cases i with
  | push v => exact hasOutcome_push v s
  | pip => exact hasOutcome_of_pushValue (value := State.ip) rfl nofun nofun rfl rfl
  | psp => exact hasOutcome_of_pushValue (value := State.sp) rfl nofun nofun rfl rfl
  | add => exact hasOutcome_of_popPair (exec_add s) nofun nofun rfl rfl
  | sub => exact hasOutcome_of_popPair (exec_sub s) nofun nofun rfl rfl
  | mul => exact hasOutcome_of_popPair (exec_mul s) nofun nofun rfl rfl
  | lsf => exact hasOutcome_of_popPair (f := shiftLeftMod shiftMod) rfl nofun nofun rfl rfl
  | rsf => exact hasOutcome_of_popPair (f := shiftRightMod shiftMod) rfl nofun nofun rfl rfl
  | inc => exact hasOutcome_of_updateTop (exec_inc s) nofun nofun rfl
  | dec => exact hasOutcome_of_updateTop (exec_dec s) nofun nofun rfl
  | iip => exact hasOutcome_of_no_access nofun rfl (exec_iip s) ⟨nofun, rfl, fun _ => rfl, .refl _ _⟩
  | dip => exact hasOutcome_of_no_access nofun rfl (exec_dip s) ⟨nofun, rfl, fun _ => rfl, .refl _ _⟩
  | isp => exact hasOutcome_of_no_access nofun rfl (exec_isp s) ⟨nofun, rfl, nofun, .refl _ _⟩
  | dsp => exact hasOutcome_of_no_access nofun rfl (exec_dsp s) ⟨nofun, rfl, nofun, .refl _ _⟩
  | call => exact hasOutcome_call s
  | ret => exact hasOutcome_ret s
  | jnz => exact hasOutcome_jnz s
  | ssp => exact hasOutcome_ssp s
  | jmp => exact hasOutcome_jmp s
  | halt => exact hasOutcome_halt s
  | nop w => exact hasOutcome_of_no_access nofun rfl (exec_nop w s) ⟨nofun, rfl, fun _ => rfl, .refl _ _⟩

theorem execOutcome_of_next {i : Instr} {s t : State} (answers : exec i s = .next t) : ExecOutcome i s t := by
  obtain ⟨t', runs, outcome⟩ := exec_hasOutcome i s
  rw [answers] at runs
  cases runs
  exact outcome

end Machine
end Sys2Proof

/-! Family other: what follows from an instruction's outcomes: the frames, and where an instruction faults. -/

namespace Sys2Proof
namespace Machine

section
variable {i : Instr} {s t : State}

/-! ### What an instruction leaves unchanged -/

/-- A fault leaves the stack, HALT too, and a committed instruction writes listed cells only. -/
theorem ExecOutcome.read_of_not_stored (outcome : ExecOutcome i s t) {a : Nat}
    (unlisted : ∀ w, .write w ∈ stackAccesses s.sp i → a ≠ w.toNat) :
    Memory.read t.stack a = Memory.read s.stack a := by
  cases outcome with
  | fault => rfl
  | halt => rfl
  | commit _ commits => exact commits.stack.other_cells a unlisted

theorem ExecOutcome.sp_kept (outcome : ExecOutcome i s t) (keeps_sp : i.movesSp = false) : t.sp = s.sp := by
  cases outcome with
  | fault => rfl
  | halt => rfl
  | commit _ commits => exact commits.sp_kept keeps_sp

theorem ExecOutcome.program_kept (outcome : ExecOutcome i s t) : t.program = s.program := by
  cases outcome with
  | fault => rfl
  | halt => rfl
  | commit _ commits => rw [commits.registers]

theorem ExecOutcome.stack_wf (outcome : ExecOutcome i s t) (canonical : Memory.wf 1024 s.stack = true) :
    Memory.wf 1024 t.stack = true := by
  cases outcome with
  | fault => exact canonical
  | halt => exact canonical
  | commit _ commits => exact commits.stack.wf canonical

theorem Commits.status_kept (commits : Commits i s t) : t.status = s.status := by rw [commits.registers]
theorem Commits.exitCode_kept (commits : Commits i s t) : t.exitCode = s.exitCode := by rw [commits.registers]
theorem Commits.faultCause_kept (commits : Commits i s t) : t.faultCause = s.faultCause := by rw [commits.registers]
theorem Commits.outValue_kept (commits : Commits i s t) : t.outValue = s.outValue := by rw [commits.registers]
theorem Commits.outValid_kept (commits : Commits i s t) : t.outValid = s.outValid := by rw [commits.registers]

/-- Of all instructions only HALT writes the output and the registers of the run's end without a fault. -/
theorem ExecOutcome.runRegistersKept (outcome : ExecOutcome i s t) (not_halt : i ≠ .halt) : RunRegistersKept s t := by
  have program_kept := outcome.program_kept
  cases outcome with
  | fault f => exact ⟨rfl, rfl, rfl, .inr ⟨f, rfl⟩⟩
  | halt is_halt => exact absurd is_halt not_halt
  | commit _ commits =>
    exact ⟨program_kept, commits.outValue_kept, commits.outValid_kept,
      .inl ⟨commits.status_kept, commits.exitCode_kept, commits.faultCause_kept⟩⟩

end

/-- Settles O26: the table lists one store, above the old top. -/
theorem pushFamilyFrame : Obligations.PushFamilyFrame := by
  intro i s t family answers
  have outcome := execOutcome_of_next answers
  have stores : i ≠ .halt ∧ ∀ w, .write w ∈ stackAccesses s.sp i → w = s.sp + 1 := by
    rcases family with ⟨v, rfl⟩ | rfl | rfl <;> simp [stackAccesses]
  obtain ⟨not_halt, only_above_top⟩ := stores
  exact ⟨outcome.runRegistersKept not_halt, fun a elsewhere =>
    outcome.read_of_not_stored fun w listed => only_above_top w listed ▸ elsewhere⟩

/-- Settles O27: the table lists one store, to the former second cell. -/
theorem popPairFrame : Obligations.PopPairFrame := by
  intro i s t family answers
  have outcome := execOutcome_of_next answers
  have stores : i ≠ .halt ∧ ∀ w, .write w ∈ stackAccesses s.sp i → w = s.sp - 1 := by
    rcases family with rfl | rfl | rfl | rfl | rfl | rfl <;> simp [stackAccesses]
  obtain ⟨not_halt, only_second⟩ := stores
  exact ⟨outcome.runRegistersKept not_halt, fun a elsewhere =>
    outcome.read_of_not_stored fun w listed => only_second w listed ▸ elsewhere⟩

/-- Settles O28: the table lists stores to the top for INC and DEC, and to the top and the second for CALL. -/
theorem inPlaceFrame : Obligations.InPlaceFrame := by
  intro i s t answers
  have outcome := execOutcome_of_next answers
  refine ⟨fun family => ?_, ?_⟩
  · have stores : i ≠ .halt ∧ i.movesSp = false ∧ ∀ w, .write w ∈ stackAccesses s.sp i → w = s.sp := by
      rcases family with rfl | rfl <;> simp [stackAccesses, Instr.movesSp]
    obtain ⟨not_halt, keeps_sp, only_top⟩ := stores
    exact ⟨outcome.runRegistersKept not_halt, outcome.sp_kept keeps_sp, fun a elsewhere =>
      outcome.read_of_not_stored fun w listed => only_top w listed ▸ elsewhere⟩
  · rintro rfl
    have stores : ∀ w, .write w ∈ stackAccesses s.sp .call → w = s.sp - 1 ∨ w = s.sp := by simp [stackAccesses]
    refine ⟨outcome.runRegistersKept nofun, outcome.sp_kept rfl, fun a not_top not_second =>
      outcome.read_of_not_stored fun w listed => ?_⟩
    rcases stores w listed with rfl | rfl
    · exact not_second
    · exact not_top

/-- Settles O29: the table lists no store for these. -/
theorem noStoreFrame : Obligations.NoStoreFrame := by
  intro i s t answers
  have outcome := execOutcome_of_next answers
  refine ⟨fun family => ?_, fun family => ?_⟩
  · have stores : i ≠ .halt ∧ i.movesSp = false ∧ ∀ w, .write w ∉ stackAccesses s.sp i := by
      rcases family with rfl | rfl | rfl | ⟨w, rfl⟩ <;> simp [stackAccesses, Instr.movesSp]
    obtain ⟨not_halt, keeps_sp, no_store⟩ := stores
    exact ⟨outcome.runRegistersKept not_halt, outcome.sp_kept keeps_sp, fun a =>
      outcome.read_of_not_stored fun w listed => absurd listed (no_store w)⟩
  · have stores : i ≠ .halt ∧ ∀ w, .write w ∉ stackAccesses s.sp i := by
      rcases family with rfl | rfl | rfl | rfl <;> simp [stackAccesses]
    obtain ⟨not_halt, no_store⟩ := stores
    exact ⟨outcome.runRegistersKept not_halt, fun a =>
      outcome.read_of_not_stored fun w listed => absurd listed (no_store w)⟩

/-- Settles O30: HALT moves no `sp` and stores nothing, and the one fault it can take is that of its read. -/
theorem haltFrame : Obligations.HaltFrame := by
  intro s t answers
  have outcome := execOutcome_of_next answers
  refine ⟨outcome.sp_kept rfl, outcome.program_kept,
    fun a => outcome.read_of_not_stored (by simp [stackAccesses]), ?_⟩
  by_cases no_top : 1024 ≤ s.sp.toNat
  · rw [exec_halt_of_ge no_top] at answers
    cases answers
    exact .inr rfl
  · rw [exec_halt_of_le (by omega)] at answers
    cases answers
    exact .inl rfl

/-! ### Where an instruction faults -/

/-- Settles O32, by the three outcomes: only a fault ends FAULTED, and only it has an access out of range. -/
theorem instructionFaultsIffAnAccessIsOutOfRange : Obligations.InstructionFaultsIffAnAccessIsOutOfRange := by
  intro i s t not_faulted answers
  change t.status = .faulted ↔ AccessOutOfRange i s
  cases execOutcome_of_next answers with
  | fault f out_of_range => exact iff_of_true rfl out_of_range
  | halt is_halt top_in_range =>
    subst is_halt
    exact iff_of_false nofun (mt accessOutOfRange_halt_iff.mp (by omega))
  | commit in_range commits => exact iff_of_false (commits.status_kept ▸ not_faulted) in_range

/-- Settles O31, by the cause numbers of the two faults. -/
theorem faultEntryWritesThreeRegisters : Obligations.FaultEntryWritesThreeRegisters :=
  fun _ => ⟨rfl, rfl⟩

/-! ### HALT -/

/-- Settles O24: the one read decides HALT's outcome, and a committed instruction of another kind keeps `status` and the
output. -/
theorem haltOutputsTheTop : Obligations.HaltOutputsTheTop := by
  refine ⟨decode_defaultOpMap_cons .halt [], fun s => ⟨exec_halt_of_le, exec_halt_of_ge⟩,
    fun i s t answers not_halt => ?_⟩
  cases execOutcome_of_next answers with
  | fault f => exact ⟨rfl, rfl, nofun⟩
  | halt is_halt => exact absurd is_halt not_halt
  | commit _ commits =>
    exact ⟨commits.outValid_kept, commits.outValue_kept, fun halted => commits.status_kept ▸ halted⟩

/-! ### The shifts and the checked write -/

/-- 42_arithmetic.md R109: the unbounded shift, cut to 16 bits, is the logical shift of the word. -/
theorem shiftLeftMod_eq (modulus : Nat) (shift value : Word) :
    shiftLeftMod modulus shift value = value <<< (shift.toNat % modulus) := by
  apply BitVec.eq_of_toNat_eq
  rw [shiftLeftMod_toNat, BitVec.toNat_shiftLeft, Nat.shiftLeft_eq]

theorem shiftRightMod_eq (modulus : Nat) (shift value : Word) :
    shiftRightMod modulus shift value = value >>> (shift.toNat % modulus) := by
  apply BitVec.eq_of_toNat_eq
  rw [shiftRightMod_toNat, BitVec.toNat_ushiftRight, Nat.shiftRight_eq_div_pow]

theorem exec_lsf (s : State) : exec .lsf s = atomically s (popPair fun shift value => value <<< (shift.toNat % 32)) := by
  simp only [exec, execLsf, shiftLeftMod_eq, shiftMod]

theorem exec_rsf (s : State) : exec .rsf s = atomically s (popPair fun shift value => value >>> (shift.toNat % 32)) := by
  simp only [exec, execRsf, shiftRightMod_eq, shiftMod]

/-- Settles O15: both are the pop pattern of 42_arithmetic.md R100, with the top as the amount and the second as the value. -/
theorem shiftsMoveTheSecondByTheTop : Obligations.ShiftsMoveTheSecondByTheTop := by
  refine ⟨decode_defaultOpMap_cons .lsf [], decode_defaultOpMap_cons .rsf [], ?_⟩
  rintro s _ _ rfl rfl
  rw [exec_lsf, exec_rsf]
  refine ⟨fun has_second top_in_range => ⟨?_, ?_⟩, fun out_of_range => ⟨?_, ?_⟩⟩
  · exact atomically_popPair_of_le _ has_second top_in_range
  · exact atomically_popPair_of_le _ has_second top_in_range
  · exact atomically_popPair_of_out_of_range _ out_of_range
  · exact atomically_popPair_of_out_of_range _ out_of_range

/-- Settles O8, by the two sides of 20_memory.md R36's check and the laws of one cell's write. -/
theorem stackWriteIsBoundsChecked : Obligations.StackWriteIsBoundsChecked := by
  intro s addr v canonical
  refine ⟨memWrite_of_ge, fun in_range => ⟨_, memWrite_of_lt in_range, rfl, ?_, ?_, ?_⟩⟩
  · exact read_write_same 1024 s.stack 0 addr.toNat v canonical
  · exact fun a elsewhere => read_write_other s.stack addr.toNat a v elsewhere
  · exact wf_write v in_range canonical

end Machine
end Sys2Proof

/-! Family other: one whole step: the outcomes of the fetch and of the instruction, and the invariant they keep. -/

namespace Sys2Proof
namespace Machine

/-! ### The states a step can answer -/

/-- All that a step from IDLE or RUNNING can answer: an outcome of the instruction at `ip`, or the fault of its fetch. -/
inductive StepOutcome (m : OpMap) (s : State) : State → Prop where
  | ran {i : Instr} {t : State} (fetched : fetchInstr m s = .ok i) (outcome : ExecOutcome i s.beginStep t) :
      StepOutcome m s t
  | fetchFault (f : Fault) (faults : fetchInstr m s = .error f) : StepOutcome m s (takeFault f s.beginStep)

theorem stepWith_outcome {m : OpMap} {s : State} (can_step : CanStep s) :
    ∃ t, stepWith m s = .next t ∧ StepOutcome m s t := by
  cases fetched : fetchInstr m s with
  | ok i =>
    obtain ⟨t, runs, outcome⟩ := exec_hasOutcome i s.beginStep
    exact ⟨t, (stepWith_of_fetch_ok can_step fetched).trans runs, .ran fetched outcome⟩
  | error f => exact ⟨_, stepWith_of_fetch_error can_step fetched, .fetchFault f fetched⟩

theorem stepOutcome_of_next {m : OpMap} {s t : State} (can_step : CanStep s) (answers : stepWith m s = .next t) :
    StepOutcome m s t := by
  obtain ⟨t', runs, outcome⟩ := stepWith_outcome (m := m) can_step
  rw [answers] at runs
  cases runs
  exact outcome

theorem eq_lowerStrobe_of_next {m : OpMap} {s t : State} (has_ended : HasEnded s) (answers : stepWith m s = .next t) :
    t = s.lowerStrobe := by
  rw [stepWith_of_hasEnded m has_ended] at answers
  cases answers
  rfl

/-- Settles O35: an ended run holds, and both outcomes of a fetch are states of the machine. -/
theorem everyStepAnswersANextState : Obligations.EveryStepAnswersANextState := by
  intro m s
  rcases canStep_or_hasEnded s with can_step | has_ended
  · obtain ⟨t, answers, -⟩ := stepWith_outcome (m := m) can_step
    exact ⟨t, answers⟩
  · exact ⟨_, stepWith_of_hasEnded m has_ended⟩

/-- Settles O38: no outcome of an instruction writes the program, and a fault or an ended run does not either. -/
theorem stepKeepsTheProgram : Obligations.StepKeepsTheProgram := by
  intro m s t answers
  rcases canStep_or_hasEnded s with can_step | has_ended
  · cases stepOutcome_of_next can_step answers with
    | ran _ outcome => exact outcome.program_kept
    | fetchFault => rfl
  · rw [eq_lowerStrobe_of_next has_ended answers, lowerStrobe_program]

/-- The state after a fault is the one before it but for the three registers of 60_exceptions.md R155 and the strobe. -/
theorem takeFault_beginStep_leaves_no_trace {s t : State} {f : Fault} (taken : t = takeFault f s.beginStep) :
    t.ip = s.ip ∧ t.sp = s.sp ∧ t.stack = s.stack ∧ t.program = s.program ∧ t.outValue = s.outValue ∧
      t.exitCode = 1 ∧ (t.faultCause = 1 ∨ t.faultCause = 2) ∧ t.outValid = false := by
  subst taken
  refine ⟨rfl, rfl, rfl, rfl, rfl, rfl, ?_, rfl⟩
  cases f
  · exact .inl rfl
  · exact .inr rfl

/-- Settles O33: of the outcomes of a step only the two faults end FAULTED. -/
theorem faultingStepLeavesNoTrace : Obligations.FaultingStepLeavesNoTrace := by
  intro m s t can_step answers faulted
  cases stepOutcome_of_next can_step answers with
  | fetchFault f => exact takeFault_beginStep_leaves_no_trace rfl
  | ran _ outcome =>
    cases outcome with
    | fault f => exact takeFault_beginStep_leaves_no_trace rfl
    | halt => cases faulted
    | commit _ commits => cases commits.status_kept.symm.trans faulted

/-- Settles O39: HALT's outcome alone raises the strobe; a fault and every other instruction leave it low and end in another
status. -/
theorem outputOnlyByHalt : Obligations.OutputOnlyByHalt := by
  intro m s t can_step answers
  cases stepOutcome_of_next can_step answers with
  | fetchFault f faults =>
    have no_halt : ¬ (fetchInstr m s = .ok .halt ∧ s.sp.toNat ≤ 1023) := by simp [faults]
    exact ⟨iff_of_false nofun no_halt, iff_of_false nofun nofun, nofun⟩
  | @ran i _ fetched outcome =>
    have fetched_halt : fetchInstr m s = .ok .halt ↔ i = .halt := by simp [fetched]
    rw [fetched_halt]
    cases outcome with
    | fault f out_of_range =>
      have no_halt : ¬ (i = .halt ∧ s.sp.toNat ≤ 1023) := by
        rintro ⟨rfl, top_in_range⟩
        have no_top : 1024 ≤ s.sp.toNat := accessOutOfRange_halt_iff.mp out_of_range
        omega
      exact ⟨iff_of_false nofun no_halt, iff_of_false nofun nofun, nofun⟩
    | halt is_halt top_in_range =>
      exact ⟨iff_of_true rfl ⟨is_halt, top_in_range⟩, iff_of_true rfl rfl, fun _ => ⟨rfl, rfl⟩⟩
    | commit _ commits =>
      have strobe_low : t.outValid = false := commits.outValid_kept
      have running : t.status = .running := commits.status_kept
      have no_halt : ¬ (i = .halt ∧ s.sp.toNat ≤ 1023) := fun halts => commits.not_halt halts.1
      simp [strobe_low, running, no_halt]

/-! ### The invariant -/

theorem outputsAgree_iff_of_canStep {s : State} (can_step : CanStep s) :
    s.outputsAgree = true ↔ s.exitCode = 0 ∧ s.faultCause = 0 ∧ s.outValue = 0 ∧ s.outValid = false := by
  rcases can_step with idle | running
  · simp [State.outputsAgree, idle, and_assoc]
  · simp [State.outputsAgree, running, and_assoc]

theorem outputsAgree_iff_of_halted {s : State} (halted : s.status = .halted) :
    s.outputsAgree = true ↔ s.exitCode = 0 ∧ s.faultCause = 0 := by
  simp [State.outputsAgree, halted]

theorem outputsAgree_iff_of_faulted {s : State} (faulted : s.status = .faulted) :
    s.outputsAgree = true ↔
      s.exitCode = 1 ∧ (s.faultCause = 1 ∨ s.faultCause = 2) ∧ s.outValue = 0 ∧ s.outValid = false := by
  simp [State.outputsAgree, faulted, and_assoc]

/-- Freshness asks something in IDLE only. -/
theorem idleIsFresh_of_ne {s : State} (not_idle : s.status ≠ .idle) : s.idleIsFresh = true := by
  rw [State.idleIsFresh]
  split
  · exact absurd ‹_› not_idle
  · rfl
  · rfl
  · rfl

/-- Settles O45: every item of the reset state is as the invariant asks. -/
theorem invHoldsAtReset : Obligations.InvHoldsAtReset :=
  ⟨(wf_reset 1024).1, (wf_reset 1024).2, rfl, rfl⟩

theorem State.Inv.beginStep {s : State} (inv : s.Inv) (can_step : CanStep s) : s.beginStep.Inv := by
  obtain ⟨exit_clear, cause_clear, value_clear, -⟩ := (outputsAgree_iff_of_canStep can_step).mp inv.outputs
  exact ⟨inv.stackWf, inv.programWf,
    (outputsAgree_iff_of_canStep (.inr rfl)).mpr ⟨exit_clear, cause_clear, value_clear, rfl⟩, rfl⟩

theorem State.Inv.takeFault {s : State} (inv : s.Inv) (can_step : CanStep s) (f : Fault) : (takeFault f s).Inv := by
  obtain ⟨-, -, value_clear, strobe_low⟩ := (outputsAgree_iff_of_canStep can_step).mp inv.outputs
  have cause_set : f.cause = 1 ∨ f.cause = 2 := by cases f <;> decide
  exact ⟨inv.stackWf, inv.programWf,
    (outputsAgree_iff_of_faulted rfl).mpr ⟨rfl, cause_set, value_clear, strobe_low⟩, rfl⟩

theorem State.Inv.lowerStrobe {s : State} (inv : s.Inv) (has_ended : HasEnded s) : s.lowerStrobe.Inv := by
  rcases has_ended with halted | faulted
  · have agree := (outputsAgree_iff_of_halted halted).mp inv.outputs
    exact ⟨inv.stackWf, inv.programWf, (outputsAgree_iff_of_halted (s := s.lowerStrobe) halted).mpr agree,
      idleIsFresh_of_ne (by simp [halted])⟩
  · obtain ⟨exit_set, cause_set, value_clear, -⟩ := (outputsAgree_iff_of_faulted faulted).mp inv.outputs
    exact ⟨inv.stackWf, inv.programWf,
      (outputsAgree_iff_of_faulted (s := s.lowerStrobe) faulted).mpr ⟨exit_set, cause_set, value_clear, rfl⟩,
      idleIsFresh_of_ne (by simp [faulted])⟩

/-- Every outcome of an instruction in RUNNING keeps the invariant. -/
theorem ExecOutcome.inv {i : Instr} {s t : State} (outcome : ExecOutcome i s t) (inv : s.Inv)
    (running : s.status = .running) : t.Inv := by
  have stack_wf := outcome.stack_wf inv.stackWf
  have agree := (outputsAgree_iff_of_canStep (.inr running)).mp inv.outputs
  cases outcome with
  | fault f => exact inv.takeFault (.inr running) f
  | halt => exact ⟨inv.stackWf, inv.programWf, (outputsAgree_iff_of_halted rfl).mpr ⟨rfl, agree.2.1⟩, rfl⟩
  | commit in_range commits =>
    have still_running : t.status = .running := commits.status_kept.trans running
    refine ⟨stack_wf, (ExecOutcome.commit in_range commits).program_kept ▸ inv.programWf,
      (outputsAgree_iff_of_canStep (.inr still_running)).mpr ?_, idleIsFresh_of_ne (by simp [still_running])⟩
    rwa [commits.exitCode_kept, commits.faultCause_kept, commits.outValue_kept, commits.outValid_kept]

/-- Settles O46: the start of a step, a fault and each outcome of an instruction keep the invariant, and so does an ended run. -/
theorem stepKeepsInv : Obligations.StepKeepsInv := by
  intro m s t inv answers
  rcases canStep_or_hasEnded s with can_step | has_ended
  · have begun : s.beginStep.Inv := inv.beginStep can_step
    cases stepOutcome_of_next can_step answers with
    | ran _ outcome => exact outcome.inv begun rfl
    | fetchFault f => exact begun.takeFault (.inr rfl) f
  · exact eq_lowerStrobe_of_next has_ended answers ▸ inv.lowerStrobe has_ended

end Machine
end Sys2Proof

/-! Family other: the host's events, and every state that they lead to. -/

namespace Sys2Proof
namespace Machine

/-! ### Load -/

theorem load_of_idle {s : State} (idle : s.status = .idle) (ws : List Word) :
    load ws s = { s with program := loadFrom s.program 0 ws } := by
  simp only [load, idle]

theorem load_of_ne_idle {s : State} (not_idle : s.status ≠ .idle) (ws : List Word) : load ws s = s := by
  rw [load]
  split
  · exact absurd ‹_› not_idle
  · rfl
  · rfl
  · rfl

theorem load_status (ws : List Word) (s : State) : (load ws s).status = s.status := by
  by_cases idle : s.status = .idle
  · rw [load_of_idle idle]
  · rw [load_of_ne_idle idle]

theorem loadFrom_cons_of_lt {i : Nat} (in_range : i < 1024) (p : Memory) (w : Word) (ws : List Word) :
    loadFrom p i (w :: ws) = loadFrom (Memory.write p i w) (i + 1) ws :=
  if_pos in_range

theorem loadFrom_of_ge {i : Nat} (no_cell_left : 1024 ≤ i) (p : Memory) : ∀ ws : List Word, loadFrom p i ws = p
  | [] => rfl
  | _ :: _ => if_neg (Nat.not_lt_of_le no_cell_left)

/-- Load leaves the cells before its first index, those past its last word and those past the buffer. -/
theorem read_loadFrom_of_not_loaded {a : Nat} : ∀ (ws : List Word) (p : Memory) (i : Nat),
    a < i ∨ i + ws.length ≤ a ∨ 1024 ≤ a → Memory.read (loadFrom p i ws) a = Memory.read p a
  | [], _, _, _ => rfl
  | w :: ws, p, i, outside => by
    rw [List.length_cons] at outside
    by_cases in_range : i < 1024
    · have elsewhere : a ≠ i := by omega
      rw [loadFrom_cons_of_lt in_range, read_loadFrom_of_not_loaded ws _ (i + 1) (by omega),
        read_write_other p i a w elsewhere]
    · rw [loadFrom_of_ge (Nat.le_of_not_lt in_range)]

/-- Load puts word `k` at index `i + k` where the buffer has that cell. -/
theorem read_loadFrom_of_loaded : ∀ (ws : List Word) (p : Memory) (i k : Nat), Memory.wf 1024 p = true →
    k < ws.length → i + k < 1024 → ws[k]? = some (Memory.read (loadFrom p i ws) (i + k))
  | w :: ws, p, i, 0, canonical, _, in_range => by
    rw [Nat.add_zero] at in_range ⊢
    rw [loadFrom_cons_of_lt in_range, read_loadFrom_of_not_loaded ws _ (i + 1) (.inl (Nat.lt_succ_self i)),
      read_write_same 1024 p 0 i w canonical, List.getElem?_cons_zero]
  | w :: ws, p, i, k + 1, canonical, k_lt, in_range => by
    have i_lt : i < 1024 := by omega
    have next_index : i + (k + 1) = i + 1 + k := by omega
    rw [loadFrom_cons_of_lt i_lt, List.getElem?_cons_succ, next_index]
    exact read_loadFrom_of_loaded ws _ (i + 1) k (wf_write w i_lt canonical) (Nat.lt_of_succ_lt_succ k_lt)
      (by omega)

/-- Settles O43: in IDLE the copy puts each word that fits and leaves the other cells; elsewhere Load does nothing. -/
theorem loadCopiesTheWords : Obligations.LoadCopiesTheWords := by
  intro ws s
  refine ⟨fun idle canonical => ⟨load ws s, rfl, ?_⟩, fun not_idle => congrArg _ (load_of_ne_idle not_idle ws)⟩
  rw [load_of_idle idle]
  refine ⟨rfl, fun i loaded => ?_, fun i not_loaded => ?_⟩
  · have word_loaded := read_loadFrom_of_loaded ws s.program 0 i canonical (by omega) (by omega)
    rwa [Nat.zero_add] at word_loaded
  · exact read_loadFrom_of_not_loaded ws s.program 0 (by omega)

/-! ### Start and Reset -/

theorem start_of_idle {s : State} (idle : s.status = .idle) : start s = { s with status := .running } := by
  simp only [start, idle]

theorem start_of_ne_idle {s : State} (not_idle : s.status ≠ .idle) : start s = s := by
  rw [start]
  split
  · exact absurd ‹_› not_idle
  · rfl
  · rfl
  · rfl

/-- Settles O42: a Step from IDLE and one from the started state begin in the same state. -/
theorem startThenStepIsStepFromIdle : Obligations.StartThenStepIsStepFromIdle := by
  intro m s
  refine ⟨fun idle => ⟨congrArg _ (start_of_idle idle), ?_⟩, fun not_idle => congrArg _ (start_of_ne_idle not_idle)⟩
  calc stepWith m s
      = runInstr m s.beginStep := stepWith_of_canStep m (.inl idle)
    _ = stepWith m { s with status := .running } := (stepWith_of_canStep (s := { s with status := .running }) m (.inr rfl)).symm

/-- Settles O44: Reset answers the reset state, whose memories list no cell. -/
theorem resetClearsEverything : Obligations.ResetClearsEverything :=
  fun _ => ⟨State.reset, rfl, rfl, read_nil, read_nil, rfl, rfl, rfl, rfl, rfl, rfl, rfl⟩

/-! ### Status -/

theorem HasEnded.status_ne_idle {s : State} (has_ended : HasEnded s) : s.status ≠ .idle := by
  rcases has_ended with halted | faulted
  · simp [halted]
  · simp [faulted]

/-- After a step of an instruction the machine runs, has halted or has faulted. -/
theorem StepOutcome.status {m : OpMap} {s t : State} (outcome : StepOutcome m s t) :
    t.status = .running ∨ t.status = .halted ∨ t.status = .faulted := by
  cases outcome with
  | fetchFault => exact .inr (.inr rfl)
  | ran _ outcome =>
    cases outcome with
    | fault => exact .inr (.inr rfl)
    | halt => exact .inr (.inl rfl)
    | commit _ commits => exact .inl commits.status_kept

/-- Settles O40, event by event. -/
theorem statusTransitions : Obligations.StatusTransitions := by
  intro m e s t answers
  cases e with
  | reset =>
    cases answers
    simp [State.reset]
  | load ws =>
    cases answers
    simp [load_status]
  | start =>
    cases answers
    refine ⟨nofun, fun _ has_ended => ?_, fun _ idle => ?_, nofun, nofun, fun _ running => ?_⟩
    · rw [start_of_ne_idle has_ended.status_ne_idle]
    · rw [start_of_idle idle]
    · rwa [start_of_ne_idle (by simp [running])]
  | step =>
    refine ⟨nofun, fun _ has_ended => ?_, nofun, nofun, fun _ can_step => ?_, nofun⟩
    · rw [eq_lowerStrobe_of_next has_ended answers, lowerStrobe_status]
    · exact (stepOutcome_of_next can_step answers).status

/-! ### Runs of steps -/

/-- Settles O41, by induction on the number of steps after the first: lowering the strobe again changes nothing. -/
theorem endedRunHoldsForEver : Obligations.EndedRunHoldsForEver := by
  intro m s has_ended n
  induction n generalizing s with
  | zero => simp only [runStepsWith, stepWith_of_hasEnded m has_ended, State.lowerStrobe]
  | succ n ih =>
    rw [runStepsWith, stepWith_of_hasEnded m has_ended]
    exact ih s.lowerStrobe has_ended

theorem beginStep_eq_self {s : State} (running : s.status = .running) (strobe_low : s.outValid = false) :
    s.beginStep = s := by
  rw [beginStep_eq, ← running, ← strobe_low]

/-- Settles O49, by induction on the number of steps: DIP answers the state it started from. -/
theorem dipRepeatsForEver : Obligations.DipRepeatsForEver := by
  intro m s running strobe_low fetched n
  have step_stays : stepWith m s = .next s := by
    rw [stepWith_of_fetch_ok (.inr running) fetched, beginStep_eq_self running strobe_low, exec_dip]
  induction n with
  | zero => rfl
  | succ n ih => simp only [runStepsWith, step_stays, ih]

/-! ### Reachable states -/

theorem State.Inv.load {s : State} (inv : s.Inv) (ws : List Word) : (load ws s).Inv := by
  by_cases idle : s.status = .idle
  · rw [load_of_idle idle]
    exact ⟨inv.stackWf, wf_loadFrom ws s.program 0 inv.programWf, inv.outputs, inv.fresh⟩
  · rwa [load_of_ne_idle idle]

theorem State.Inv.start {s : State} (inv : s.Inv) : (start s).Inv := by
  by_cases idle : s.status = .idle
  · have agree := (outputsAgree_iff_of_canStep (.inl idle)).mp inv.outputs
    rw [start_of_idle idle]
    exact ⟨inv.stackWf, inv.programWf, (outputsAgree_iff_of_canStep (.inr rfl)).mpr agree, rfl⟩
  · rwa [start_of_ne_idle idle]

theorem State.Inv.hostEvent {m : OpMap} {e : HostEvent} {s t : State} (inv : s.Inv)
    (answers : hostEventWith m e s = .next t) : t.Inv := by
  cases e with
  | reset => cases answers; exact invHoldsAtReset
  | load ws => cases answers; exact inv.load ws
  | start => cases answers; exact inv.start
  | step => exact stepKeepsInv m s t inv answers

theorem Reachable.inv {m : OpMap} {s : State} (reachable : Reachable m s) : s.Inv := by
  induction reachable with
  | reset => exact invHoldsAtReset
  | event s t e _ answers ih => exact ih.hostEvent answers

/-- What the host observes in each status (10_state.md R26, R27; 40_fetch_decode_cycle.md R77). -/
theorem State.Inv.observations {s : State} (inv : s.Inv) :
    (exitStatus s = some 0 ↔ s.status = .halted) ∧ (exitStatus s = some 1 ↔ s.status = .faulted) ∧
    (exitStatus s = none ↔ CanStep s) ∧
    (s.status = .halted → runResult s = some (0, some s.outValue)) ∧
    (s.status = .faulted → runResult s = some (1, none)) ∧
    (CanStep s → runResult s = none) ∧ (outputEvent s ≠ none → s.status = .halted) := by
  cases status : s.status with
  | idle =>
    obtain ⟨-, -, -, strobe_low⟩ := (outputsAgree_iff_of_canStep (.inl status)).mp inv.outputs
    simp [exitStatus, runResult, outputEvent, CanStep, status, strobe_low]
  | running =>
    obtain ⟨-, -, -, strobe_low⟩ := (outputsAgree_iff_of_canStep (.inr status)).mp inv.outputs
    simp [exitStatus, runResult, outputEvent, CanStep, status, strobe_low]
  | halted =>
    obtain ⟨exit_ok, -⟩ := (outputsAgree_iff_of_halted status).mp inv.outputs
    simp [exitStatus, runResult, CanStep, status, exit_ok]
  | faulted =>
    obtain ⟨exit_fault, -, -, strobe_low⟩ := (outputsAgree_iff_of_faulted status).mp inv.outputs
    simp [exitStatus, runResult, outputEvent, CanStep, status, exit_fault, strobe_low]

/-- Settles O47: reset meets the invariant, every event keeps it, and in each status it fixes what the host sees. -/
theorem reachableStatesAreConsistent : Obligations.ReachableStatesAreConsistent :=
  fun _ _ reachable => ⟨reachable.inv, reachable.inv.observations⟩

end Machine
end Sys2Proof

/-! Family other: pairs of instructions, and the text of an output. -/

namespace Sys2Proof
namespace Machine

/-! ### CALL and RET, and the pushed pointers -/

/-- Settles O48: CALL's lower store is what RET jumps to, and RET's one store puts the callee's top where its new `sp` points. -/
theorem callThenRetReturns : Obligations.CallThenRetReturns := by
  intro s has_second top_in_range canonical
  obtain ⟨call_commits, -⟩ := callSwapsInTheReturnAddress.2 s _ _ rfl rfl
  have lower_stored : Memory.wf 1024 (Memory.write s.stack (s.sp.toNat - 1) (s.ip + 1)) = true :=
    wf_write _ (by omega) canonical
  refine ⟨_, call_commits has_second top_in_range, rfl, rfl, read_write_same 1024 _ 0 _ _ lower_stored, ?_⟩
  intro u same_sp u_canonical return_address_kept
  have return_address : Memory.read u.stack (u.sp.toNat - 1) = s.ip + 1 := by
    have not_top : s.sp.toNat - 1 ≠ s.sp.toNat := by omega
    rw [return_address_kept, read_write_other _ _ _ _ not_top, read_write_same 1024 _ 0 _ _ canonical]
  rw [← same_sp] at has_second top_in_range ⊢
  obtain ⟨ret_commits, -⟩ := retReturnsToTheSecondCell.2 u _ _ rfl rfl
  refine ⟨_, ret_commits has_second top_in_range, return_address, rfl, ?_⟩
  have second_index : (u.sp - 1).toNat = u.sp.toNat - 1 := BitVec.toNat_sub_of_le has_second
  rw [second_index]
  exact read_write_same 1024 u.stack 0 _ _ u_canonical

/-- Settles O50: the top that SSP or JMP reads is the pointer just pushed. -/
theorem pushedPointersLeadBack : Obligations.PushedPointersLeadBack := by
  intro s canonical in_range
  have top_in_range : (s.sp + 1).toNat ≤ 1023 := Nat.le_of_lt_succ in_range
  have pushed_top (v : Word) : Memory.read (Memory.write s.stack (s.sp + 1).toNat v) (s.sp + 1).toNat = v :=
    read_write_same 1024 s.stack 0 _ v canonical
  obtain ⟨pip_commits, psp_commits⟩ := (pipAndPspPushThePointers.2.2 s).1 in_range
  refine ⟨⟨_, psp_commits, ?_⟩, ⟨_, pip_commits, ?_⟩⟩
  · rw [(sspLoadsSpFromTheTop.2 _).1 top_in_range]
    simp only [pushed_top]
  · rw [(jmpLoadsIpFromTheTop.2 _).1 top_in_range]
    simp only [pushed_top]

/-! ### The text of an output -/

/-- The digits put before `acc` are Mathlib's, which run from the least significant one up. -/
theorem decimalDigitsAux_eq_digits : ∀ (fuel n : Nat) (acc : List Nat), 0 < n → n < 10 ^ fuel →
    decimalDigitsAux fuel n acc = (Nat.digits 10 n).reverse ++ acc
  | 0, n, acc, positive, bounded => by omega
  | fuel + 1, n, acc, positive, bounded => by
    rw [decimalDigitsAux]
    split
    case isTrue one_digit => simp [Nat.digits_of_lt 10 n positive.ne' one_digit]
    case isFalse more_digits =>
      have quotient_positive : 0 < n / 10 := Nat.div_pos (Nat.le_of_not_lt more_digits) (by decide)
      have quotient_bounded : n / 10 < 10 ^ fuel := Nat.div_lt_of_lt_mul (by rwa [← Nat.pow_succ'])
      rw [decimalDigitsAux_eq_digits fuel (n / 10) _ quotient_positive quotient_bounded,
        Nat.digits_def' (by decide) positive, List.reverse_cons, List.append_assoc, List.singleton_append]

theorem decimalDigits_of_pos {v : Word} (positive : 0 < v.toNat) :
    decimalDigits v = (Nat.digits 10 v.toNat).reverse := by
  rw [decimalDigits, decimalDigitsAux_eq_digits 5 v.toNat [] positive (by omega), List.append_nil]

theorem decimalDigits_of_toNat_eq_zero {v : Word} (zero : v.toNat = 0) : decimalDigits v = [0] := by
  rw [decimalDigits, zero]
  rfl

/-- Reading digits from the most significant one down gives the number they stand for. -/
theorem foldl_reverse_digits (n : Nat) : (Nat.digits 10 n).reverse.foldl (fun n d => 10 * n + d) 0 = n := by
  rw [List.foldl_reverse]
  conv_rhs => rw [← Nat.ofDigits_digits 10 n, Nat.ofDigits_eq_foldr]
  simp only [Nat.cast_id, Nat.add_comm]

/-- 45_halt_and_nop.md R142: 1 to 5 decimal digits with the value of the word and no leading zero. -/
theorem decimalDigits_spec (v : Word) :
    (∀ d ∈ decimalDigits v, d < 10) ∧ (decimalDigits v).foldl (fun n d => 10 * n + d) 0 = v.toNat ∧
      1 ≤ (decimalDigits v).length ∧ (decimalDigits v).length ≤ 5 ∧
      ((decimalDigits v).head? = some 0 → decimalDigits v = [0]) := by
  by_cases zero : v.toNat = 0
  · rw [decimalDigits_of_toNat_eq_zero zero, zero]
    decide
  · have nonempty : Nat.digits 10 v.toNat ≠ [] := Nat.digits_ne_nil_iff_ne_zero.mpr zero
    have at_most_five : (Nat.digits 10 v.toNat).length ≤ 5 :=
      (Nat.digits_length_le_iff (by decide) v.toNat).mpr (by omega)
    rw [decimalDigits_of_pos (Nat.pos_of_ne_zero zero)]
    refine ⟨fun d digit => Nat.digits_lt_base (by decide) (List.mem_reverse.mp digit), foldl_reverse_digits v.toNat,
      ?_, ?_, ?_⟩
    · rw [List.length_reverse]
      exact List.length_pos_iff.mpr nonempty
    · rwa [List.length_reverse]
    · intro leading_zero
      rw [List.head?_reverse, List.getLast?_eq_getLast_of_ne_nil nonempty] at leading_zero
      exact absurd (Option.some.inj leading_zero) (Nat.getLast_digit_ne_zero 10 zero)

/-- Settles O51: the text is the characters of the decimal digits, and the default terminator the byte 0x0A. -/
theorem outputTextIsDecimal : Obligations.OutputTextIsDecimal :=
  ⟨fun _ v => ⟨decimalDigits v, rfl, decimalDigits_spec v⟩, fun _ => rfl⟩

end Machine
end Sys2Proof
